-- ==== Sys2Proof/Word.lean ====
section
/-! DEFINITION. The words the block handles: bytes, 32-bit register words, FLT encodings. -/

namespace Sys2Proof

/-- One byte of system memory. -/
abbrev Byte := BitVec 8

/-- One register word (10_state.md R61) or one command word (30_encoding.md R180). -/
abbrev Word := BitVec 32

/-- A container for one FLT encoding (00_scope.md R17): the low FW bits hold the encoding, and with FW = 32 the
upper half is zero in every state the invariant admits. DESIGN CHOICE, log 3. -/
abbrev Flt := BitVec 64

end Sys2Proof
end

