-- ==== Sys2Proof/Config.lean ====
section
/-! DEFINITION. What an instance of the block fixes (00_scope.md R10), and the free values the spec leaves open. -/

namespace Sys2Proof

/-- The number format FW (00_scope.md R10, R17): binary32 or binary64. -/
inductive Fmt where
  | b32
  | b64
  deriving DecidableEq, Repr

/-- The three units (10_state.md R50). -/
inductive UnitId where
  | fir
  | iir
  | win
  deriving DecidableEq, Repr

/-- The parameters of an instance (00_scope.md R10). `windowInDma` says whether the platform maps the block's own
register window into the DMA master's address space (20_memory.md R151). -/
structure Params where
  fmt         : Fmt
  firSize     : Nat
  numB        : Nat
  numA        : Nat
  winSize     : Nat
  hasDesign   : Bool
  blockBase   : Nat
  windowInDma : Bool
  deriving DecidableEq, Repr

/-- NC(u), the coefficient count of a unit (00_scope.md R10). -/
def Params.nc (c : Params) : UnitId → Nat
  | .fir => c.firSize
  | .iir => c.numB + c.numA
  | .win => c.winSize

/-- NH(u), the history count of a unit (00_scope.md R10). -/
def Params.nh (c : Params) : UnitId → Nat
  | .fir => c.firSize
  | .iir => c.numB + c.numA
  | .win => 0

/-- The instance State.reset starts from: the one the test vectors use (95_test_vectors.md V-R1), with the spec's
defaults IIR (3, 2) and HAS_FIR_DESIGN = 1. DESIGN CHOICE, log 1: no statement rests on it. -/
def Params.default : Params :=
  { fmt := .b32, firSize := 3, numB := 3, numA := 2, winSize := 5, hasDesign := true,
    blockBase := 0x40000000, windowInDma := true }

namespace Config

/-- SIN (00_scope.md R10, R24): the configuration function of the design commands, a total function of its operand
of which nothing is assumed (log 13). -/
opaque sin : Fmt → Flt → Flt

/-- The encoding of the n-th NaN result a unit's arithmetic may deliver (00_scope.md R20): its sign and payload are
taken from this free value (log 4). -/
opaque nanDraw : UnitId → Nat → BitVec 64

/-- The contents of the bytes of a MemWrite that was answered with a bus error (93_implementation_defined.md row 9;
log 5). -/
opaque failedWrite : UnitId → Nat → BitVec 64

/-- The value a HEAD read returns while the FIR is busy, before it is brought below FIR_SIZE (40_common.md R255;
log 9). -/
opaque headDraw : Nat → Nat

/-- How far a PROG read while busy has moved on from the last one (70_reset_and_hazards.md R562; log 10). -/
opaque progDraw : Nat → Nat

/-- Whether a DOUT word read while busy is already the new one (70_reset_and_hazards.md R562; log 11). -/
opaque doutDraw : Nat → Bool

/-- The length of the prefix of DMA writes performed before `rst` abandons a command (70_reset_and_hazards.md R551;
log 12). -/
opaque resetPrefix : Nat → Nat

end Config

end Sys2Proof
end

