-- ==== Sys2Proof/Syntax.lean ====
section
/-! DEFINITION. The commands: one constructor per row of spec/opcode_table.json (30_encoding.md R184). -/

namespace Sys2Proof

/-- A command of a unit. Commands carry no operand fields: every operand is a register latched at issue
(30_encoding.md R188, 40_common.md R233). -/
inductive Instr where
  | firProcess
  | firProcess1
  | firReset
  | firSetFactors
  | firGetFactors
  | firDesignLowpass
  | firDesignHighpass
  | firDesignBandpass
  | iirProcess
  | iirProcess1
  | iirReset
  | iirSetFactors
  | iirGetFactors
  | iirSetCoeffs
  | winProcess
  | winSetFactors
  | winGetFactors
  | winSetupRect
  | winSetupHamming
  | winSetupHann
  | winSetupBlackman
  deriving DecidableEq, Repr

/-- The unit that executes the command: the one whose bank holds the CMD register written (30_encoding.md R180). -/
def Instr.unit : Instr → UnitId
  | .firProcess | .firProcess1 | .firReset | .firSetFactors | .firGetFactors
  | .firDesignLowpass | .firDesignHighpass | .firDesignBandpass => .fir
  | .iirProcess | .iirProcess1 | .iirReset | .iirSetFactors | .iirGetFactors | .iirSetCoeffs => .iir
  | .winProcess | .winSetFactors | .winGetFactors
  | .winSetupRect | .winSetupHamming | .winSetupHann | .winSetupBlackman => .win

/-- The commands of the FIR's coefficient-design sequencer (42_fir_design.md R350). -/
def Instr.isDesign : Instr → Bool
  | .firDesignLowpass | .firDesignHighpass | .firDesignBandpass => true
  | .firProcess | .firProcess1 | .firReset | .firSetFactors | .firGetFactors
  | .iirProcess | .iirProcess1 | .iirReset | .iirSetFactors | .iirGetFactors | .iirSetCoeffs
  | .winProcess | .winSetFactors | .winGetFactors
  | .winSetupRect | .winSetupHamming | .winSetupHann | .winSetupBlackman => false

end Sys2Proof
end

