-- ==== Sys2Proof/WellFormed.lean ====
section
/-! DEFINITION. Which commands an instance has, and which parameter values are legal. -/

namespace Sys2Proof

/-- A command exists in an instance unless it is a design command and HAS_FIR_DESIGN = 0 (30_encoding.md R186). -/
def Instr.wf (c : Params) (i : Instr) : Bool :=
  c.hasDesign || !i.isDesign

/-- The legal parameter values of 00_scope.md R10, with BLOCK_BASE aligned to 0x400. -/
def Params.legal (c : Params) : Bool :=
  decide (1 ≤ c.firSize) && decide (c.firSize ≤ 65536)
  && decide (1 ≤ c.numB) && decide (c.numB + c.numA ≤ 65536)
  && decide (1 ≤ c.winSize) && decide (c.winSize ≤ 65536)
  && decide (c.blockBase % 0x400 = 0)

end Sys2Proof
end

