-- ==== Sys2Proof/Decode.lean ====
section
/-! DEFINITION. Decoding of command words (30_encoding.md R180 to R187), the encoder, and the host's table word. -/

namespace Sys2Proof

/-- Why a word is ILLEGAL (30_encoding.md R181, R185, R186). All four are treated alike (40_common.md R231). -/
inductive IllegalWord where
  | reservedBits
  | unassigned
  | notOfThisUnit
  | designAbsent
  deriving DecidableEq, Repr

/-- The outcome of decoding (30_encoding.md R187): every word has exactly one. -/
inductive Decoded where
  | illegal (why : IllegalWord)
  | command (i : Instr)
  deriving DecidableEq, Repr

/-- The field OP = w[7:0] of a command word (30_encoding.md R180). -/
def opField (w : Word) : Nat := w.toNat % 256

/-- The field RSV = w[31:8] of a command word (30_encoding.md R180). -/
def rsvField (w : Word) : Nat := w.toNat / 256

/-- The opcode map of the FIR unit (30_encoding.md R184). -/
def decodeFir : Nat → Option Instr
  | 0x01 => some .firProcess
  | 0x02 => some .firProcess1
  | 0x03 => some .firReset
  | 0x04 => some .firSetFactors
  | 0x05 => some .firGetFactors
  | 0x10 => some .firDesignLowpass
  | 0x11 => some .firDesignHighpass
  | 0x12 => some .firDesignBandpass
  | _ => none

/-- The opcode map of the IIR unit (30_encoding.md R184). -/
def decodeIir : Nat → Option Instr
  | 0x01 => some .iirProcess
  | 0x02 => some .iirProcess1
  | 0x03 => some .iirReset
  | 0x04 => some .iirSetFactors
  | 0x05 => some .iirGetFactors
  | 0x06 => some .iirSetCoeffs
  | _ => none

/-- The opcode map of the WIN unit (30_encoding.md R184). -/
def decodeWin : Nat → Option Instr
  | 0x01 => some .winProcess
  | 0x04 => some .winSetFactors
  | 0x05 => some .winGetFactors
  | 0x20 => some .winSetupRect
  | 0x21 => some .winSetupHamming
  | 0x22 => some .winSetupHann
  | 0x23 => some .winSetupBlackman
  | _ => none

/-- The opcode map of a unit. -/
def decodeOp (u : UnitId) (op : Nat) : Option Instr :=
  match u with
  | .fir => decodeFir op
  | .iir => decodeIir op
  | .win => decodeWin op

/-- Whether an opcode is assigned in some unit (30_encoding.md R184, R185). -/
def opAssigned (op : Nat) : Bool :=
  (decodeFir op).isSome || (decodeIir op).isSome || (decodeWin op).isSome

/-- `decode(kind, w)` of 30_encoding.md R187, total on every word; the presence of the design sequencer decides the
legality of the DESIGN opcodes. -/
def decode (hasDesign : Bool) (u : UnitId) (w : Word) : Decoded :=
  if rsvField w ≠ 0 then .illegal .reservedBits
  else match decodeOp u (opField w) with
    | none => .illegal (if opAssigned (opField w) then .notOfThisUnit else .unassigned)
    | some i => if i.isDesign && !hasDesign then .illegal .designAbsent else .command i

/-- The opcode of a command (30_encoding.md R184). -/
def opcode : Instr → Nat
  | .firProcess => 0x01
  | .firProcess1 => 0x02
  | .firReset => 0x03
  | .firSetFactors => 0x04
  | .firGetFactors => 0x05
  | .firDesignLowpass => 0x10
  | .firDesignHighpass => 0x11
  | .firDesignBandpass => 0x12
  | .iirProcess => 0x01
  | .iirProcess1 => 0x02
  | .iirReset => 0x03
  | .iirSetFactors => 0x04
  | .iirGetFactors => 0x05
  | .iirSetCoeffs => 0x06
  | .winProcess => 0x01
  | .winSetFactors => 0x04
  | .winGetFactors => 0x05
  | .winSetupRect => 0x20
  | .winSetupHamming => 0x21
  | .winSetupHann => 0x22
  | .winSetupBlackman => 0x23

/-- The command word: RSV = 0 and the opcode in OP (30_encoding.md R180). -/
def encode (i : Instr) : Word := BitVec.ofNat 32 (opcode i)

/-- The bank offset of a unit in the block's window (10_state.md R50). -/
def bankOffset : UnitId → Nat
  | .fir => 0x000
  | .iir => 0x100
  | .win => 0x200

/-- The bus address of a unit's CMD register (10_state.md R61, 30_encoding.md R201). -/
def cmdAddress (base : Nat) (u : UnitId) : Nat := base + bankOffset u + 0x14

/-- Which unit a word alone stands for: the first of FIR, IIR, WIN in which it is legal (with the design sequencer
present), since the word itself does not name the unit (30_encoding.md R180). DESIGN CHOICE, log 15. -/
def tableUnit (w : Word) : UnitId :=
  match decode true .fir w with
  | .command _ => .fir
  | .illegal _ =>
    match decode true .iir w with
    | .command _ => .iir
    | .illegal _ => .win

/-- The host's table word: the command the decoder reads from a 32-bit word in the unit `tableUnit` chooses
(log 15). A word that has bits above the table's width, or a table width above 32, is none. -/
def decodeTableWord (nbits w : Nat) : Option Instr :=
  if nbits ≤ 32 ∧ w < 2 ^ nbits then
    match decode true (tableUnit (BitVec.ofNat 32 w)) (BitVec.ofNat 32 w) with
    | .command i => some i
    | .illegal _ => none
  else none

end Sys2Proof
end

