-- ==== Sys2Proof/Machine/Float.lean ====
section
/-! DEFINITION. The FLT primitives of 00_scope.md R17 to R23: IEEE 754 binary32 and binary64 by exact integer
arithmetic and one rounding. -/

namespace Sys2Proof.Machine

/-- Fraction bits of the format (00_scope.md R17). -/
def fracBits : Fmt → Nat
  | .b32 => 23
  | .b64 => 52

/-- Exponent bits of the format (00_scope.md R17). -/
def expBits : Fmt → Nat
  | .b32 => 8
  | .b64 => 11

/-- FW: the width of the encodings in bits (00_scope.md R10). -/
def fltWidth : Fmt → Nat
  | .b32 => 32
  | .b64 => 64

/-- B = FW / 8: the bytes of a sample or coefficient (00_scope.md R10). -/
def fltBytes (f : Fmt) : Nat := fltWidth f / 8

/-- The exponent q for which 2^(-q) is the smallest positive subnormal; every finite value is a whole number of
these quanta. -/
def quantumExp : Fmt → Nat
  | .b32 => 149
  | .b64 => 1074

/-- The encoding of +∞: all exponent bits one, fraction zero. -/
def infMag (f : Fmt) : Nat := (2 ^ expBits f - 1) * 2 ^ fracBits f

/-- The sign bit's weight. -/
def signWeight (f : Fmt) : Nat := 2 ^ (fltWidth f - 1)

/-- A value cut to the format's width. -/
def truncFlt (f : Fmt) (v : BitVec 64) : Flt := BitVec.ofNat 64 (v.toNat % 2 ^ fltWidth f)

/-- The encoding without its sign bit. -/
def fltMag (f : Fmt) (x : Flt) : Nat := x.toNat % signWeight f

/-- The sign bit. -/
def fltNeg (f : Fmt) (x : Flt) : Bool := decide (x.toNat / signWeight f % 2 = 1)

/-- A NaN: exponent all ones, fraction not zero. -/
def isNaN (f : Fmt) (x : Flt) : Bool := decide (infMag f < fltMag f x)

/-- ±∞. -/
def isInf (f : Fmt) (x : Flt) : Bool := decide (fltMag f x = infMag f)

/-- A finite value, zero and subnormals included. -/
def isFinite (f : Fmt) (x : Flt) : Bool := decide (fltMag f x < infMag f)

/-- ±0. -/
def isZero (f : Fmt) (x : Flt) : Bool := decide (fltMag f x = 0)

/-- How many quanta a finite magnitude encoding stands for: the fraction alone when the exponent field is 0, else the
hidden bit and the fraction, shifted by the exponent field less one. -/
def magUnits (f : Fmt) (m : Nat) : Nat :=
  if m / 2 ^ fracBits f = 0 then m
  else (2 ^ fracBits f + m % 2 ^ fracBits f) * 2 ^ (m / 2 ^ fracBits f - 1)

/-- The magnitude of a finite value in quanta. -/
def fltUnits (f : Fmt) (x : Flt) : Nat := magUnits f (fltMag f x)

/-- The encoding with a given sign and magnitude. -/
def packFlt (f : Fmt) (neg : Bool) (mag : Nat) : Flt :=
  BitVec.ofNat 64 ((if neg then signWeight f else 0) + mag)

/-- The quotient num / den rounded to a whole number, ties to even (00_scope.md R18). -/
def roundEven (num den : Nat) : Nat :=
  if 2 * (num % den) < den then num / den
  else if den < 2 * (num % den) then num / den + 1
  else num / den + (num / den) % 2

/-- How many low bits a value of num / den quanta loses: it keeps fracBits + 1 significant bits. -/
def dropBits (f : Fmt) (num den : Nat) : Nat := Nat.log2 (num / den) - fracBits f

/-- The magnitude encoding of num / den quanta, rounded once to nearest, ties to even, subnormals kept, overflow to
infinity (00_scope.md R18). The exponent field and the hidden bit add up: a carry out of the significand moves to the
next exponent by itself. -/
def roundMag (f : Fmt) (num den : Nat) : Nat :=
  min (infMag f)
    (dropBits f num den * 2 ^ fracBits f + roundEven num (den * 2 ^ dropBits f num den))

/-- A quiet NaN whose sign and payload are those of the free value q (00_scope.md R20). -/
def quietNaN (f : Fmt) (q : BitVec 64) : Flt :=
  packFlt f (q.getLsbD 63)
    (infMag f + 2 ^ (fracBits f - 1) + q.toNat % 2 ^ (fracBits f - 1))

/-- ZERO, the encoding of +0.0 (00_scope.md R22). -/
def fltZero : Flt := 0#64

/-- ONE (00_scope.md R22). -/
def fltOne : Fmt → Flt
  | .b32 => 0x3F800000#64
  | .b64 => 0x3FF0000000000000#64

/-- TWO (00_scope.md R22). -/
def fltTwo : Fmt → Flt
  | .b32 => 0x40000000#64
  | .b64 => 0x4000000000000000#64

/-- HALF (00_scope.md R22). -/
def fltHalf : Fmt → Flt
  | .b32 => 0x3F000000#64
  | .b64 => 0x3FE0000000000000#64

/-- PI_F (00_scope.md R22). -/
def fltPi : Fmt → Flt
  | .b32 => 0x40490FDB#64
  | .b64 => 0x400921FB54442D18#64

/-- FNEG: flips the sign bit, NaNs included (00_scope.md R19). -/
def fneg (f : Fmt) (a : Flt) : Flt := packFlt f (!fltNeg f a) (fltMag f a)

/-- The signed value of a finite operand in quanta. -/
def signedUnits (f : Fmt) (a : Flt) : Int :=
  if fltNeg f a then -(fltUnits f a : Int) else (fltUnits f a : Int)

/-- The rounded encoding of a sum of x quanta; a zero sum is -0 only when both operands are negative
(00_scope.md R19). -/
def roundSum (f : Fmt) (bothNeg : Bool) (x : Int) : Flt :=
  if x = 0 then packFlt f bothNeg 0
  else packFlt f (decide (x < 0)) (roundMag f x.natAbs 1)

/-- FADD (00_scope.md R18 to R20); q is the free value a NaN result takes its pattern from. -/
def fadd (f : Fmt) (q : BitVec 64) (a b : Flt) : Flt :=
  if isNaN f a || isNaN f b then quietNaN f q
  else if isInf f a then
    if isInf f b && (fltNeg f a != fltNeg f b) then quietNaN f q
    else packFlt f (fltNeg f a) (infMag f)
  else if isInf f b then packFlt f (fltNeg f b) (infMag f)
  else roundSum f (fltNeg f a && fltNeg f b) (signedUnits f a + signedUnits f b)

/-- FSUB: a + (-b), which is IEEE 754's subtraction (00_scope.md R18, R19). -/
def fsub (f : Fmt) (q : BitVec 64) (a b : Flt) : Flt := fadd f q a (fneg f b)

/-- FMUL (00_scope.md R18 to R20). -/
def fmul (f : Fmt) (q : BitVec 64) (a b : Flt) : Flt :=
  if isNaN f a || isNaN f b then quietNaN f q
  else if isInf f a || isInf f b then
    if isZero f a || isZero f b then quietNaN f q
    else packFlt f (fltNeg f a != fltNeg f b) (infMag f)
  else packFlt f (fltNeg f a != fltNeg f b)
    (roundMag f (fltUnits f a * fltUnits f b) (2 ^ quantumExp f))

/-- FDIV (00_scope.md R18 to R20). -/
def fdiv (f : Fmt) (q : BitVec 64) (a b : Flt) : Flt :=
  if isNaN f a || isNaN f b then quietNaN f q
  else if isInf f a then
    if isInf f b then quietNaN f q
    else packFlt f (fltNeg f a != fltNeg f b) (infMag f)
  else if isInf f b then packFlt f (fltNeg f a != fltNeg f b) 0
  else if isZero f b then
    if isZero f a then quietNaN f q
    else packFlt f (fltNeg f a != fltNeg f b) (infMag f)
  else packFlt f (fltNeg f a != fltNeg f b)
    (roundMag f (fltUnits f a * 2 ^ quantumExp f) (fltUnits f b))

/-- The order key of a value that is no NaN: the encoding's magnitude with its sign; both zeros are 0. -/
def orderKey (f : Fmt) (a : Flt) : Int :=
  if fltNeg f a then -(fltMag f a : Int) else (fltMag f a : Int)

/-- FLT_LT, the ordered comparison, false when an operand is a NaN (00_scope.md R21). -/
def fltLt (f : Fmt) (a b : Flt) : Bool :=
  !isNaN f a && !isNaN f b && decide (orderKey f a < orderKey f b)

/-- FLT_LE, the ordered comparison, false when an operand is a NaN (00_scope.md R21). -/
def fltLe (f : Fmt) (a b : Flt) : Bool :=
  !isNaN f a && !isNaN f b && decide (orderKey f a ≤ orderKey f b)

/-- ITOF, exact for |k| < 65536 (00_scope.md R22). -/
def itof (f : Fmt) (k : Int) : Flt :=
  packFlt f (decide (k < 0)) (roundMag f (k.natAbs * 2 ^ quantumExp f) 1)

/-- The accumulation of n terms in ascending order from +0.0 (00_scope.md R23); q gives the free value of the i-th
addition. -/
def accumulate (f : Fmt) (q : Nat → BitVec 64) (term : Nat → Flt) : Nat → Flt
  | 0 => fltZero
  | n + 1 => fadd f (q n) (accumulate f q term n) (term n)

/-- The free NaN patterns of a unit from its counter on (00_scope.md R20; log 4). -/
def nanStream (u : UnitId) (n : Nat) : Nat → BitVec 64 := fun i => Config.nanDraw u (n + i)

/-- SIN(x) (00_scope.md R24), an FLT of the format. -/
def fsin (f : Fmt) (x : Flt) : Flt := truncFlt f (Config.sin f x)

end Sys2Proof.Machine
end

