-- ==== Sys2Proof/Machine/State.lean ====
section
/-! DEFINITION. The machine's state as plain data, why a run stops, and the state after reset. -/

namespace Sys2Proof.Machine

/-- The error codes of 30_encoding.md R190 but NONE. -/
inductive ErrCode where
  | nullAddr
  | zeroLen
  | lenMismatch
  | freqRange
  | freqOrder
  | misaligned
  | addrRange
  | indexOob
  | illegalCmd
  | busy
  | busError
  deriving DecidableEq, Repr

/-- The in-flight command record `u.pend` (10_state.md R56, 40_common.md R233). -/
structure Pend where
  op    : Instr
  addr  : Word
  addr2 : Word
  len   : Word
  len2  : Word
  fa    : Flt
  fb    : Flt
  din   : Flt
  deriving DecidableEq, Repr

/-- One unit's bank: its registers (10_state.md R61), arrays (R51 to R54), engine state (R56) and staging latches
(R57). `err` holds ERR and ERRCODE together: none is ERR = 0. `head` is the FIR's; the other banks hold 0.
`draws` and `progSeen` are the model's own counters (logs 4, 10). -/
structure Bank where
  coef      : List Flt
  hist      : List Flt
  head      : Nat
  pend      : Option Pend
  doneIe    : Bool
  errIe     : Bool
  done      : Bool
  err       : Option ErrCode
  errAddr   : Word
  addr      : Word
  addr2     : Word
  len       : Word
  len2      : Word
  prog      : Word
  cidx      : Word
  hidx      : Word
  freqA     : Flt
  freqB     : Flt
  din       : Flt
  dout      : Flt
  stFreqA   : Word
  stFreqB   : Word
  stDin     : Word
  stCdata   : Word
  stHdata   : Word
  draws     : Nat
  progSeen  : Nat
  deriving DecidableEq, Repr

/-- A memory: address and byte pairs in the canonical form of `Memory.wf` (Ops.lean). -/
abbrev Memory := List Host.Cell

/-- What a byte of system memory that nothing is listed for reads as. The spec leaves the contents to the host
(10_state.md R101): DESIGN CHOICE 0, log 2. -/
def unlistedByte : Byte := 0#8

/-- One item of the host's program (30_encoding.md R200, R201): a bus write or read of `width` bytes at a host
physical address, or the polling loop on a unit's STATUS (log 8). -/
inductive HostOp where
  | write (addr width : Nat) (data : BitVec 64)
  | read (addr width : Nat)
  | wait (u : UnitId)
  deriving DecidableEq, Repr

/-- What the host gets back from an access: the data of a read, or a bus error response (20_memory.md R131). -/
inductive Response where
  | data (v : BitVec 64)
  | busError
  deriving DecidableEq, Repr

/-- Who makes the next transition (log 7). An engine's turn carries the platform's answers: the index, in access
order, of the command's DMA access that gets a bus error, if one does (20_memory.md R147; log 6). -/
inductive Turn where
  | host
  | engine (u : UnitId) (fail : Option Nat)
  | rst
  deriving DecidableEq, Repr

/-- Why the machine stops: exactly the model faults of 60_exceptions.md R540. Each is safe: the model stops where the
spec says no value may be picked. -/
inductive Fault where
  /-- Raised by a host access to a byte of an in-flight command's DMA range (70_reset_and_hazards.md R561 (a)). Safe. -/
  | hostRace (u : UnitId)
  /-- Raised at acceptance of a command whose range conflicts with one in flight on another unit (R561 (b)). Safe. -/
  | unitRace (u v : UnitId)
  /-- Raised at issue of a command whose range overlaps the block's own window (20_memory.md R151). Safe. -/
  | windowOverlap (u : UnitId)
  deriving DecidableEq, Repr

/-- Why an instruction has no meaning. No command of this block is refused (60_exceptions.md R540). -/
inductive Refusal where
  /-- Raised by an arm of exec that has no meaning yet; no arm is left so. Safe. -/
  | notModelled (mnemonic : String)
  deriving DecidableEq, Repr

/-- The whole machine: the instance's parameters, the three banks, system memory; then the inputs (the host's program
and the schedule), the output (what the host got back, newest first), and the counter of the free values drawn outside
the engines' arithmetic (logs 1, 7 to 12). -/
structure State where
  cfg      : Params
  fir      : Bank
  iir      : Bank
  win      : Bank
  mem      : Memory
  host     : List HostOp
  sched    : List Turn
  received : List Response
  freeCtr  : Nat
  deriving DecidableEq, Repr

/-- The coefficients after the block reset: +0.0 in FIR and IIR, ONE in WIN (10_state.md R100). -/
def resetCoef (c : Params) : UnitId → Flt
  | .fir => fltZero
  | .iir => fltZero
  | .win => fltOne c.fmt

/-- A bank after the block reset (10_state.md R100); the counter of free values is not block state and goes on (log 23). -/
def Bank.reset (c : Params) (u : UnitId) (draws : Nat) : Bank :=
  { coef := List.replicate (c.nc u) (resetCoef c u), hist := List.replicate (c.nh u) fltZero, head := 0,
    pend := none, doneIe := false, errIe := false, done := false, err := none, errAddr := 0#32,
    addr := 0#32, addr2 := 0#32, len := 0#32, len2 := 0#32, prog := 0#32, cidx := 0#32, hidx := 0#32,
    freqA := fltZero, freqB := fltZero, din := fltZero, dout := fltZero,
    stFreqA := 0#32, stFreqB := 0#32, stDin := 0#32, stCdata := 0#32, stHdata := 0#32,
    draws := draws, progSeen := 0 }

/-- An instance right after reset, with nothing in memory, no host program and an empty schedule
(70_reset_and_hazards.md R550, R581). -/
def State.resetOf (c : Params) : State :=
  { cfg := c, fir := Bank.reset c .fir 0, iir := Bank.reset c .iir 0, win := Bank.reset c .win 0,
    mem := [], host := [], sched := [], received := [], freeCtr := 0 }

/-- The machine right after reset, for the instance of log 1. -/
def State.reset : State := State.resetOf Params.default

end Sys2Proof.Machine
end

