-- ==== Sys2Proof/Machine/Ops.lean ====
section
/-! DEFINITION. The shared operations: memory, the banks, and recording an error with its way back. -/

namespace Sys2Proof.Machine

/-! ### System memory (20_memory.md) -/

/-- The canonical form: addresses strictly rising, and no entry equal to what an unlisted byte reads as. -/
def Memory.wf : Memory → Bool
  | [] => true
  | (x, y) :: rest => decide (y ≠ unlistedByte) && rest.all (fun c => decide (x < c.1)) && Memory.wf rest

/-- The byte at an address. -/
def memGet : Memory → Nat → Byte
  | [], _ => unlistedByte
  | (x, y) :: rest, a => if x = a then y else memGet rest a

/-- One byte stored, the canonical form kept. -/
def memSet : Memory → Nat → Byte → Memory
  | [], a, v => if v = unlistedByte then [] else [(a, v)]
  | (x, y) :: rest, a, v =>
    if a < x then (if v = unlistedByte then (x, y) :: rest else (a, v) :: (x, y) :: rest)
    else if a = x then (if v = unlistedByte then rest else (a, v) :: rest)
    else (x, y) :: memSet rest a v

/-- n bytes from address a as a number, the byte at the lowest address least significant (20_memory.md R143). -/
def readBytes (m : Memory) : Nat → Nat → Nat
  | _, 0 => 0
  | a, n + 1 => (memGet m a).toNat + 256 * readBytes m (a + 1) n

/-- The n low bytes of v stored from address a on, least significant first (20_memory.md R143). -/
def writeBytes (m : Memory) : Nat → Nat → Nat → Memory
  | _, 0, _ => m
  | a, n + 1, v => writeBytes (memSet m a (BitVec.ofNat 8 v)) (a + 1) n (v / 256)

/-- The value of a MemRead of B bytes that is answered without a bus error (00_scope.md R14). -/
def readFlt (f : Fmt) (m : Memory) (a : Nat) : Flt := BitVec.ofNat 64 (readBytes m a (fltBytes f))

/-- The effect of a MemWrite of B bytes that is answered without a bus error (00_scope.md R14). -/
def writeFlt (f : Fmt) (m : Memory) (a : Nat) (v : Flt) : Memory := writeBytes m a (fltBytes f) v.toNat

/-- The address of element k of a buffer at A (20_memory.md R142). -/
def elemAddr (f : Fmt) (base k : Nat) : Nat := base + k * fltBytes f

/-! ### Banks -/

/-- The bank of a unit (10_state.md R50). -/
def State.bank (s : State) : UnitId → Bank
  | .fir => s.fir
  | .iir => s.iir
  | .win => s.win

/-- The state with a unit's bank replaced. -/
def State.setBank (s : State) (u : UnitId) (b : Bank) : State :=
  match u with
  | .fir => { s with fir := b }
  | .iir => { s with iir := b }
  | .win => { s with win := b }

/-- The state with another memory. -/
def State.withMem (s : State) (m : Memory) : State := { s with mem := m }

/-- The state with another host program. -/
def State.withHost (s : State) (h : List HostOp) : State := { s with host := h }

/-- The state with another schedule. -/
def State.withSched (s : State) (t : List Turn) : State := { s with sched := t }

/-- The host gets something back from an access. -/
def State.push (s : State) (r : Response) : State := { s with received := r :: s.received }

/-- The next free value of reads and resets is taken. -/
def State.tick (s : State) : State := { s with freeCtr := s.freeCtr + 1 }

/-- `u.busy` (10_state.md R56): a command is in flight exactly while its record is held. -/
def Bank.busy (b : Bank) : Bool := b.pend.isSome

/-! ### Recording an error, and the way back (60_exceptions.md R500, R501, R520, R521) -/

/-- `raise Err(code)`: the first error wins, ERR is set (60_exceptions.md R500). It is the whole of what an error does:
the block has no trap (R520). -/
def Bank.raise (b : Bank) (e : ErrCode) : Bank := { b with err := some (b.err.getD e) }

/-- `ERRADDR-record(a)` (60_exceptions.md R501). -/
def Bank.recordErrAddr (b : Bank) (a : Nat) : Bank :=
  if b.err.isNone then { b with errAddr := BitVec.ofNat 32 a } else b

/-- A DMA access at a answered with a bus error: ERRADDR, then BUS_ERROR (60_exceptions.md R501, R502). -/
def Bank.busError (b : Bank) (a : Nat) : Bank := (b.recordErrAddr a).raise .busError

/-- A CMD write rejected by decode or validation: DONE and the error (40_common.md R230 to R232). -/
def Bank.reject (b : Bank) (e : ErrCode) : Bank := { b.raise e with done := true }

/-- A STATUS write: W1C of DONE by bit 1; of ERR, ERRCODE and ERRADDR by bit 2 (10_state.md R75). This is how a host
returns from an error (60_exceptions.md R521). -/
def Bank.clearStatus (b : Bank) (w : Word) : Bank :=
  let b1 := if w.getLsbD 1 then { b with done := false } else b
  if w.getLsbD 2 then { b1 with err := none, errAddr := 0#32 } else b1

/-- An error recorded in a unit, nothing else. -/
def State.raiseIn (s : State) (u : UnitId) (e : ErrCode) : State := s.setBank u ((s.bank u).raise e)

/-- A rejected CMD write in a unit. -/
def State.rejectIn (s : State) (u : UnitId) (e : ErrCode) : State := s.setBank u ((s.bank u).reject e)

end Sys2Proof.Machine
end

