-- ==== Sys2Proof/Machine/Operands.lean ====
section
/-! DEFINITION. The operands of a command: latching (40_common.md R233), validation (R240, R241 and the commands' own
rules), and the memory a command touches (20_memory.md R162). -/

namespace Sys2Proof.Machine

/-- The record a CMD write would latch (40_common.md R233). -/
def latch (i : Instr) (b : Bank) : Pend :=
  { op := i, addr := b.addr, addr2 := b.addr2, len := b.len, len2 := b.len2,
    fa := b.freqA, fb := b.freqB, din := b.din }

/-- `check_buffer(A, L, req)` of 40_common.md R240; `none` for req is "any". -/
def checkBuffer (f : Fmt) (addr len : Nat) (req : Option Nat) : Option ErrCode :=
  if addr = 0 then some .nullAddr
  else if len = 0 then some .zeroLen
  else if req.any (fun n => decide (len ≠ n)) then some .lenMismatch
  else if addr % fltBytes f ≠ 0 then some .misaligned
  else if 2 ^ 32 < addr + len * fltBytes f then some .addrRange
  else none

/-- The validation of PROCESS on FIR and IIR (40_common.md R241). -/
def checkAnyLength (c : Params) (p : Pend) : Option ErrCode :=
  checkBuffer c.fmt p.addr.toNat p.len.toNat none

/-- The validation of commands whose count is fixed: SET_FACTORS and GET_FACTORS with NC(u), PROCESS on WIN with
WIN_SIZE (40_common.md R241). -/
def checkExact (n : Nat) (c : Params) (p : Pend) : Option ErrCode :=
  checkBuffer c.fmt p.addr.toNat p.len.toNat (some n)

/-- The validation of SET_COEFFS: b before a; with IIR_NUMA = 0 the a vector must be empty (43_iir.md R421). -/
def checkCoeffs (c : Params) (p : Pend) : Option ErrCode :=
  match checkBuffer c.fmt p.addr.toNat p.len.toNat (some c.numB) with
  | some e => some e
  | none =>
    if 0 < c.numA then checkBuffer c.fmt p.addr2.toNat p.len2.toNat (some c.numA)
    else if p.len2.toNat ≠ 0 then some .lenMismatch
    else none

/-- `freq_valid(f)` (42_fir_design.md R352). -/
def freqValid (f : Fmt) (x : Flt) : Bool := fltLt f fltZero x && fltLt f x (fltHalf f)

/-- The validation of DESIGN_LOWPASS and DESIGN_HIGHPASS (42_fir_design.md R352). -/
def checkFreq (c : Params) (p : Pend) : Option ErrCode :=
  if freqValid c.fmt p.fa then none else some .freqRange

/-- The validation of DESIGN_BANDPASS (42_fir_design.md R381). -/
def checkBand (c : Params) (p : Pend) : Option ErrCode :=
  if !fltLt c.fmt p.fa p.fb then some .freqOrder
  else if !freqValid c.fmt p.fb then some .freqRange
  else if !freqValid c.fmt p.fa then some .freqRange
  else none

/-- The validation of PROCESS1, RESET and SETUP_*: none (40_common.md R241). -/
def checkNothing (_ : Params) (_ : Pend) : Option ErrCode := none

/-- A DMA range of a command (20_memory.md R162): `bytes` bytes from `start`, written or only read. -/
structure DmaRange where
  start  : Nat
  bytes  : Nat
  writes : Bool
  deriving DecidableEq, Repr

/-- Whether a range has a byte in common with `bytes` bytes from `start`. -/
def DmaRange.touches (r : DmaRange) (start bytes : Nat) : Bool :=
  decide (r.start < start + bytes) && decide (start < r.start + r.bytes)
    && decide (0 < r.bytes) && decide (0 < bytes)

/-- The DMA ranges of an in-flight command (20_memory.md R162). -/
def footprint (c : Params) (p : Pend) : List DmaRange :=
  let buffer := fun w => [DmaRange.mk p.addr.toNat (p.len.toNat * fltBytes c.fmt) w]
  match p.op with
  | .firProcess | .iirProcess | .winProcess => buffer true
  | .firGetFactors | .iirGetFactors | .winGetFactors => buffer true
  | .firSetFactors | .iirSetFactors | .winSetFactors => buffer false
  | .iirSetCoeffs => buffer false ++ [DmaRange.mk p.addr2.toNat (c.numA * fltBytes c.fmt) false]
  | .firProcess1 | .firReset | .firDesignLowpass | .firDesignHighpass | .firDesignBandpass
  | .iirProcess1 | .iirReset
  | .winSetupRect | .winSetupHamming | .winSetupHann | .winSetupBlackman => []

/-- A command whose range overlaps the block's own window, where the platform maps it for the DMA master
(20_memory.md R151). -/
def hitsWindow (c : Params) (p : Pend) : Bool :=
  c.windowInDma && (footprint c p).any (fun r => r.touches c.blockBase 0x400)

/-- Two ranges that overlap, at least one of them written (20_memory.md R163). -/
def DmaRange.conflicts (r q : DmaRange) : Bool := r.touches q.start q.bytes && (r.writes || q.writes)

/-- Two commands with conflicting ranges (20_memory.md R163). -/
def pendsConflict (c : Params) (p q : Pend) : Bool :=
  (footprint c p).any (fun r => (footprint c q).any (fun r' => r.conflicts r'))

/-- Whether the command in flight on unit v conflicts with p (70_reset_and_hazards.md R561 (b)). -/
def racesWith (s : State) (p : Pend) (v : UnitId) : Bool :=
  match (s.bank v).pend with
  | none => false
  | some q => pendsConflict s.cfg p q

/-- The first other unit in flight a command of unit u would race with. -/
def raceOf (s : State) (u : UnitId) (p : Pend) : Option UnitId :=
  [UnitId.fir, .iir, .win].find? (fun v => decide (v ≠ u) && racesWith s p v)

/-- Whether the command in flight on unit v has a byte of an access of `bytes` bytes from `start` in its DMA ranges
(70_reset_and_hazards.md R561 (a)). -/
def inFlightTouches (s : State) (start bytes : Nat) (v : UnitId) : Bool :=
  match (s.bank v).pend with
  | none => false
  | some q => (footprint s.cfg q).any (fun r => r.touches start bytes)

/-- The first unit whose in-flight range a host access touches. -/
def hostRaceOf (s : State) (start bytes : Nat) : Option UnitId :=
  [UnitId.fir, .iir, .win].find? (fun v => inFlightTouches s start bytes v)

end Sys2Proof.Machine
end

