-- ==== Sys2Proof/Machine/Flags.lean ====
section
/-! DEFINITION. The status and control words, the error codes, the identification words and the interrupt output. -/

namespace Sys2Proof.Machine

/-- ERRCODE values (30_encoding.md R190). -/
def ErrCode.code : ErrCode → Nat
  | .nullAddr => 0x11
  | .zeroLen => 0x12
  | .lenMismatch => 0x13
  | .freqRange => 0x14
  | .freqOrder => 0x15
  | .misaligned => 0x16
  | .addrRange => 0x17
  | .indexOob => 0x21
  | .illegalCmd => 0x31
  | .busy => 0x32
  | .busError => 0x33

/-- The three classes of 30_encoding.md R191: the high nibble of ERRCODE. -/
def ErrCode.errClass (e : ErrCode) : Nat := e.code / 16

/-- ERRCODE as STATUS shows it: 0 when ERR = 0 (10_state.md R74). -/
def errField (e : Option ErrCode) : Nat :=
  match e with
  | none => 0
  | some e => e.code

/-- One flag at a bit position of a register word. -/
def flagAt (v : Bool) (i : Nat) : Nat := if v then 2 ^ i else 0

/-- STATUS as read (10_state.md R74). -/
def statusWord (b : Bank) : Word :=
  BitVec.ofNat 32 (flagAt b.busy 0 + flagAt b.done 1 + flagAt b.err.isSome 2 + errField b.err * 2 ^ 8)

/-- CTRL as read (10_state.md R73). -/
def ctrlWord (b : Bank) : Word := BitVec.ofNat 32 (flagAt b.doneIe 0 + flagAt b.errIe 1)

/-- CTRL as written: the reserved bits are ignored (10_state.md R73). -/
def Bank.writeCtrl (b : Bank) (w : Word) : Bank :=
  { b with doneIe := w.getLsbD 0, errIe := w.getLsbD 1 }

/-- One unit's contribution to the interrupt (60_exceptions.md R510). -/
def Bank.irq (b : Bank) : Bool := (b.doneIe && b.done) || (b.errIe && b.err.isSome)

/-- The interrupt output, level-sensitive and active high (60_exceptions.md R510). -/
def State.irq (s : State) : Bool := s.fir.irq || s.iir.irq || s.win.irq

/-- KIND codes (10_state.md R50, R70). -/
def kindCode : UnitId → Nat
  | .fir => 0x01
  | .iir => 0x02
  | .win => 0x03

/-- ID (10_state.md R70): KIND, FMT, DESIGN (FIR only), REV = 1. -/
def idWord (c : Params) (u : UnitId) : Word :=
  BitVec.ofNat 32 (kindCode u + fltWidth c.fmt * 2 ^ 8 + flagAt (c.hasDesign && decide (u = .fir)) 16 + 2 ^ 24)

/-- SIZE0 (10_state.md R71). -/
def size0Word (c : Params) : UnitId → Word
  | .fir => BitVec.ofNat 32 c.firSize
  | .iir => BitVec.ofNat 32 c.numB
  | .win => BitVec.ofNat 32 c.winSize

/-- SIZE1 (10_state.md R72). -/
def size1Word (c : Params) : UnitId → Word
  | .fir => 0#32
  | .iir => BitVec.ofNat 32 c.numA
  | .win => 0#32

end Sys2Proof.Machine
end

