-- ==== Sys2Proof/Machine/Command.lean ====
section
/-! DEFINITION. The command lifecycle shared by every command (40_common.md R230 to R235): issue, acceptance, the
engine's transition, completion. -/

namespace Sys2Proof.Machine

/-- What an engine does with its own bank and system memory while it executes the latched record, given which of its
DMA accesses gets a bus error (40_common.md R234; log 6). -/
abbrev Engine := Params → Pend → Option Nat → Bank → Memory → Bank × Memory

/-- Acceptance (40_common.md R233): the record latched, PROG 0, busy; DONE stays. -/
def Bank.accept (b : Bank) (p : Pend) : Bank := { b with pend := some p, prog := 0#32, progSeen := 0 }

/-- Completion (40_common.md R235): not busy, DONE. -/
def Bank.complete (b : Bank) : Bank := { b with pend := none, done := true }

/-- An engine's whole execution and completion as one atomic transition (20_memory.md R164). -/
def runEngine (u : UnitId) (eng : Engine) (p : Pend) (fail : Option Nat) (s : State) : State :=
  let r := eng s.cfg p fail (s.bank u) s.mem
  (s.setBank u r.1.complete).withMem r.2

/-- Whether unit u's engine moves right after the CMD write, with the bus error its turn carries and the schedule that
is left: it does when the schedule is exhausted or has the engine's turn next (log 7). -/
def engineNext (u : UnitId) (sched : List Turn) : Option (Option Nat × List Turn) :=
  match sched with
  | [] => some (none, [])
  | .engine v fail :: rest => if v = u then some (fail, rest) else none
  | .host :: _ => none
  | .rst :: _ => none

/-- A CMD write rejected because its word is ILLEGAL; while busy the busy check comes first (40_common.md R230, R231). -/
def rejectIllegal (u : UnitId) (s : State) : State :=
  if (s.bank u).busy then s.raiseIn u .busy else s.rejectIn u .illegalCmd

/-- Acceptance of command p on unit u, and its engine's transition when the schedule has it next. -/
def acceptRun (u : UnitId) (eng : Engine) (p : Pend) (s : State) : State :=
  let s1 := s.setBank u ((s.bank u).accept p)
  match engineNext u s1.sched with
  | none => s1
  | some (fail, rest) => runEngine u eng p fail (s1.withSched rest)

/-- The CMD write of command i (40_common.md R230), with its validation and its engine: the busy check, the legality of
the opcode in this instance, validation, the model's faults of 60_exceptions.md R540, acceptance. -/
def issue (i : Instr) (check : Params → Pend → Option ErrCode) (eng : Engine) (s : State) :
    Host.Outcome State Fault Refusal :=
  let u := i.unit
  let p := latch i (s.bank u)
  if (s.bank u).busy then .next (s.raiseIn u .busy)
  else if !i.wf s.cfg then .next (s.rejectIn u .illegalCmd)
  else match check s.cfg p with
    | some e => .next (s.rejectIn u e)
    | none =>
      if hitsWindow s.cfg p then .fault (.windowOverlap u)
      else match raceOf s u p with
        | some v => .fault (.unitRace u v)
        | none => .next (acceptRun u eng p s)

end Sys2Proof.Machine
end

