-- ==== Sys2Proof/Machine/Transfer.lean ====
section
/-! DEFINITION. The loops every unit shares: in-place processing (40_common.md R243), coefficient load and readback
(R260, R261). DMA accesses are numbered from 0 in access order; `fail` is the one answered with a bus error. -/

namespace Sys2Proof.Machine

/-- PROG set to a count of elements (10_state.md R81). -/
def Bank.setProg (b : Bank) (k : Nat) : Bank := { b with prog := BitVec.ofNat 32 k }

/-- A MemWrite of B bytes at a that is answered with a bus error: the bytes are a free value
(93_implementation_defined.md row 9; log 5). -/
def failedStore (f : Fmt) (u : UnitId) (n : Nat) (m : Memory) (a : Nat) : Memory :=
  writeFlt f m a (Config.failedWrite u n)

/-- One free value of the unit's counter is used. -/
def Bank.useDraws (b : Bank) (n : Nat) : Bank := { b with draws := b.draws + n }

/-- `dma_process(u, f)` (40_common.md R243) for the n elements from element k on. Element k's read is access 2k, its
write access 2k+1. A failed write finds the history advanced (41_fir.md R310). -/
def processLoop (f : Fmt) (u : UnitId) (sample : Bank → Flt → Nat → Bank × Flt) (base : Nat) (fail : Option Nat) :
    Nat → Nat → Bank → Memory → Bank × Memory
  | 0, _, b, m => (b, m)
  | n + 1, k, b, m =>
    let a := elemAddr f base k
    if fail = some (2 * k) then (b.busError a, m)
    else
      let r := sample b (readFlt f m a) k
      if fail = some (2 * k + 1) then ((r.1.useDraws 1).busError a, failedStore f u r.1.draws m a)
      else processLoop f u sample base fail n (k + 1) (r.1.setProg (k + 1)) (writeFlt f m a r.2)

/-- The n elements of a vector in memory (20_memory.md R142). -/
def readVector (f : Fmt) (m : Memory) (base n : Nat) : List Flt :=
  (List.range n).map (fun i => readFlt f m (elemAddr f base i))

/-- SET_FACTORS of n coefficients (40_common.md R260): all at once, and nothing on a bus error. -/
def setFactors (f : Fmt) (n : Nat) (p : Pend) (fail : Option Nat) (b : Bank) (m : Memory) : Bank × Memory :=
  match fail with
  | some i =>
    if i < n then ((b.setProg i).busError (elemAddr f p.addr.toNat i), m)
    else ({ b with coef := readVector f m p.addr.toNat n }.setProg n, m)
  | none => ({ b with coef := readVector f m p.addr.toNat n }.setProg n, m)

/-- The write loop of GET_FACTORS (40_common.md R261) for the remaining values, the first of which is entry k. -/
def storeLoop (f : Fmt) (u : UnitId) (base : Nat) (fail : Option Nat) :
    List Flt → Nat → Bank → Memory → Bank × Memory
  | [], _, b, m => (b, m)
  | v :: rest, k, b, m =>
    let a := elemAddr f base k
    if fail = some k then ((b.useDraws 1).busError a, failedStore f u b.draws m a)
    else storeLoop f u base fail rest (k + 1) (b.setProg (k + 1)) (writeFlt f m a v)

/-- The first n coefficients of a bank (10_state.md R51). -/
def coefVector (b : Bank) (n : Nat) : List Flt := (List.range n).map (fun i => b.coef.getD i fltZero)

/-- GET_FACTORS of n coefficients (40_common.md R261). -/
def getFactors (f : Fmt) (u : UnitId) (n : Nat) (p : Pend) (fail : Option Nat) (b : Bank) (m : Memory) :
    Bank × Memory :=
  storeLoop f u p.addr.toNat fail (coefVector b n) 0 b m

end Sys2Proof.Machine
end

