-- ==== Sys2Proof/Machine/Fir.lean ====
section
/-! DEFINITION. The FIR unit's filtering, reset and coefficient transfer (41_fir.md, 40_common.md R260, R261). -/

namespace Sys2Proof.Machine

/-- The output of `step_FIR` (41_fir.md R300): coef[i] against the input i samples back, hist already holding the new
input at head. The additions take the free values q 0 .. q (S-1), the products the S after them. -/
def firOutput (f : Fmt) (q : Nat → BitVec 64) (size : Nat) (coef hist : List Flt) (head : Nat) : Flt :=
  accumulate f q
    (fun i => fmul f (q (size + i)) (coef.getD i fltZero) (hist.getD ((head + size - i) % size) fltZero)) size

/-- `step_FIR(x)` (41_fir.md R300). -/
def stepFir (c : Params) (b : Bank) (x : Flt) : Bank × Flt :=
  let hist := b.hist.set b.head x
  ({ b with hist := hist, head := (b.head + 1) % c.firSize, draws := b.draws + 2 * c.firSize },
   firOutput c.fmt (nanStream .fir b.draws) c.firSize b.coef hist b.head)

/-- PROCESS on FIR (41_fir.md R310). -/
def engineFirProcess : Engine := fun c p fail b m =>
  processLoop c.fmt .fir (fun b x _ => stepFir c b x) p.addr.toNat fail p.len.toNat 0 b m

/-- PROCESS1 on FIR (41_fir.md R311). -/
def engineFirProcess1 : Engine := fun c p _ b m =>
  let r := stepFir c b p.din
  ({ r.1 with dout := r.2 }, m)

/-- RESET on FIR (41_fir.md R320): history and head, not the coefficients. -/
def engineFirReset : Engine := fun c _ _ b m =>
  ({ b with hist := List.replicate c.firSize fltZero, head := 0 }, m)

/-- SET_FACTORS on FIR (40_common.md R260). -/
def engineFirSetFactors : Engine := fun c p fail b m => setFactors c.fmt c.firSize p fail b m

/-- GET_FACTORS on FIR (40_common.md R261). -/
def engineFirGetFactors : Engine := fun c p fail b m => getFactors c.fmt .fir c.firSize p fail b m

/-- The validation of SET_FACTORS and GET_FACTORS on FIR (40_common.md R241). -/
def checkFirFactors (c : Params) (p : Pend) : Option ErrCode := checkExact c.firSize c p

/-- The CMD write of FIR PROCESS (41_fir.md R310). -/
def execFirProcess (s : State) : Host.Outcome State Fault Refusal :=
  issue .firProcess checkAnyLength engineFirProcess s

/-- The CMD write of FIR PROCESS1 (41_fir.md R311). -/
def execFirProcess1 (s : State) : Host.Outcome State Fault Refusal :=
  issue .firProcess1 checkNothing engineFirProcess1 s

/-- The CMD write of FIR RESET (41_fir.md R320). -/
def execFirReset (s : State) : Host.Outcome State Fault Refusal :=
  issue .firReset checkNothing engineFirReset s

/-- The CMD write of FIR SET_FACTORS (40_common.md R260). -/
def execFirSetFactors (s : State) : Host.Outcome State Fault Refusal :=
  issue .firSetFactors checkFirFactors engineFirSetFactors s

/-- The CMD write of FIR GET_FACTORS (40_common.md R261). -/
def execFirGetFactors (s : State) : Host.Outcome State Fault Refusal :=
  issue .firGetFactors checkFirFactors engineFirGetFactors s

end Sys2Proof.Machine
end

