-- ==== Sys2Proof/Machine/Design.lean ====
section
/-! DEFINITION. The FIR's coefficient-design commands (42_fir_design.md). -/

namespace Sys2Proof.Machine

/-- The centre tap M (42_fir_design.md R351). -/
def centreTap (size : Nat) : Nat := (size - 1) / 2

/-- The numerator's angle of tap n: ((2·π)·f)·k with k = n - M (42_fir_design.md R353). -/
def tapAngle (f : Fmt) (q : Nat → BitVec 64) (freq k : Flt) : Flt :=
  fmul f (q 2) (fmul f (q 1) (fmul f (q 0) (fltTwo f) (fltPi f)) freq) k

/-- One ideal sinc tap (42_fir_design.md R353); a tap takes at most five free values. -/
def sincTap (f : Fmt) (q : Nat → BitVec 64) (size : Nat) (freq : Flt) (n : Nat) : Flt :=
  if n = centreTap size then fmul f (q 0) (fltTwo f) freq
  else
    let k := itof f ((n : Int) - (centreTap size : Int))
    fdiv f (q 4) (fsin f (tapAngle f q freq k)) (fmul f (q 3) (fltPi f) k)

/-- `sinc_taps(f)` (42_fir_design.md R353). -/
def sincTaps (f : Fmt) (q : Nat → BitVec 64) (size : Nat) (freq : Flt) : List Flt :=
  (List.range size).map (fun n => sincTap f (fun j => q (5 * n + j)) size freq n)

/-- `normalize(h)` (42_fir_design.md R354): each tap divided by the accumulated sum. -/
def normalizeTaps (f : Fmt) (q : Nat → BitVec 64) (h : List Flt) : List Flt :=
  let sum := accumulate f q (fun n => h.getD n fltZero) h.length
  (List.range h.length).map (fun n => fdiv f (q (h.length + n)) (h.getD n fltZero) sum)

/-- `lowpass(f)` (42_fir_design.md R355); it takes 7 S free values. -/
def lowpass (f : Fmt) (q : Nat → BitVec 64) (size : Nat) (freq : Flt) : List Flt :=
  normalizeTaps f (fun j => q (5 * size + j)) (sincTaps f q size freq)

/-- `highpass(f)` (42_fir_design.md R370): spectral inversion, then the centre tap plus one. -/
def highpass (f : Fmt) (q : Nat → BitVec 64) (size : Nat) (freq : Flt) : List Flt :=
  let c := (lowpass f q size freq).map (fneg f)
  c.set (centreTap size) (fadd f (q (7 * size)) (c.getD (centreTap size) fltZero) (fltOne f))

/-- The band-pass coefficients (42_fir_design.md R380): high-cutoff low-pass minus low-cutoff low-pass. -/
def bandpass (f : Fmt) (q : Nat → BitVec 64) (size : Nat) (freqLow freqHigh : Flt) : List Flt :=
  let hi := lowpass f q size freqHigh
  let lo := lowpass f (fun j => q (7 * size + j)) size freqLow
  (List.range size).map (fun n => fsub f (q (14 * size + n)) (hi.getD n fltZero) (lo.getD n fltZero))

/-- DESIGN_LOWPASS (42_fir_design.md R360). -/
def engineFirDesignLowpass : Engine := fun c p _ b m =>
  ({ b with coef := lowpass c.fmt (nanStream .fir b.draws) c.firSize p.fa }.useDraws (7 * c.firSize), m)

/-- DESIGN_HIGHPASS (42_fir_design.md R370). -/
def engineFirDesignHighpass : Engine := fun c p _ b m =>
  ({ b with coef := highpass c.fmt (nanStream .fir b.draws) c.firSize p.fa }.useDraws (7 * c.firSize + 1), m)

/-- DESIGN_BANDPASS (42_fir_design.md R380). -/
def engineFirDesignBandpass : Engine := fun c p _ b m =>
  ({ b with coef := bandpass c.fmt (nanStream .fir b.draws) c.firSize p.fa p.fb }.useDraws (15 * c.firSize), m)

/-- The CMD write of FIR DESIGN_LOWPASS (42_fir_design.md R360). -/
def execFirDesignLowpass (s : State) : Host.Outcome State Fault Refusal :=
  issue .firDesignLowpass checkFreq engineFirDesignLowpass s

/-- The CMD write of FIR DESIGN_HIGHPASS (42_fir_design.md R370). -/
def execFirDesignHighpass (s : State) : Host.Outcome State Fault Refusal :=
  issue .firDesignHighpass checkFreq engineFirDesignHighpass s

/-- The CMD write of FIR DESIGN_BANDPASS (42_fir_design.md R380). -/
def execFirDesignBandpass (s : State) : Host.Outcome State Fault Refusal :=
  issue .firDesignBandpass checkBand engineFirDesignBandpass s

end Sys2Proof.Machine
end

