-- ==== Sys2Proof/Machine/Iir.lean ====
section
/-! DEFINITION. The IIR unit (43_iir.md). -/

namespace Sys2Proof.Machine

/-- A shifted history (43_iir.md R400): the newest value at position 0, the oldest of n dropped. -/
def shiftIn (n : Nat) (x : Flt) (h : List Flt) : List Flt := (x :: h).take n

/-- One of the two sums of `step_IIR` (43_iir.md R400): n coefficients against a history; it takes 2 n free values. -/
def dotProduct (f : Fmt) (q : Nat → BitVec 64) (n : Nat) (coef hist : List Flt) : Flt :=
  accumulate f q (fun i => fmul f (q (n + i)) (coef.getD i fltZero) (hist.getD i fltZero)) n

/-- The output of `step_IIR` (43_iir.md R400), xin already holding the new input, yout the outputs before this step. -/
def iirOutput (c : Params) (q : Nat → BitVec 64) (coef xin yout : List Flt) : Flt :=
  fsub c.fmt (q (2 * c.numB + 2 * c.numA))
    (dotProduct c.fmt q c.numB (coef.take c.numB) xin)
    (dotProduct c.fmt (fun j => q (2 * c.numB + j)) c.numA (coef.drop c.numB) yout)

/-- `step_IIR(x)` (43_iir.md R400). With IIR_NUMA = 0 the output history stays empty. -/
def stepIir (c : Params) (b : Bank) (x : Flt) : Bank × Flt :=
  let xin := shiftIn c.numB x (b.hist.take c.numB)
  let yout := b.hist.drop c.numB
  let y := iirOutput c (nanStream .iir b.draws) b.coef xin yout
  ({ b with hist := xin ++ shiftIn c.numA y yout, draws := b.draws + (2 * c.numB + 2 * c.numA + 1) }, y)

/-- PROCESS on IIR (43_iir.md R410). -/
def engineIirProcess : Engine := fun c p fail b m =>
  processLoop c.fmt .iir (fun b x _ => stepIir c b x) p.addr.toNat fail p.len.toNat 0 b m

/-- PROCESS1 on IIR (43_iir.md R411). -/
def engineIirProcess1 : Engine := fun c p _ b m =>
  let r := stepIir c b p.din
  ({ r.1 with dout := r.2 }, m)

/-- RESET on IIR (43_iir.md R430): history and coefficients. -/
def engineIirReset : Engine := fun c _ _ b m =>
  ({ b with hist := List.replicate (c.numB + c.numA) fltZero,
            coef := List.replicate (c.numB + c.numA) fltZero }, m)

/-- SET_FACTORS on IIR (40_common.md R260): the combined vector. -/
def engineIirSetFactors : Engine := fun c p fail b m => setFactors c.fmt (c.numB + c.numA) p fail b m

/-- GET_FACTORS on IIR (40_common.md R261). -/
def engineIirGetFactors : Engine := fun c p fail b m => getFactors c.fmt .iir (c.numB + c.numA) p fail b m

/-- The address of access i of SET_COEFFS: the b vector, then the a vector (43_iir.md R420). -/
def coeffsAddr (c : Params) (p : Pend) (i : Nat) : Nat :=
  if i < c.numB then elemAddr c.fmt p.addr.toNat i else elemAddr c.fmt p.addr2.toNat (i - c.numB)

/-- SET_COEFFS when every read is answered (43_iir.md R420). -/
def loadCoeffs (c : Params) (p : Pend) (b : Bank) (m : Memory) : Bank :=
  { b with coef := readVector c.fmt m p.addr.toNat c.numB ++ readVector c.fmt m p.addr2.toNat c.numA }.setProg
    (c.numB + c.numA)

/-- SET_COEFFS (43_iir.md R420): both halves in one step, nothing on a bus error. -/
def engineIirSetCoeffs : Engine := fun c p fail b m =>
  match fail with
  | some i =>
    if i < c.numB + c.numA then ((b.setProg i).busError (coeffsAddr c p i), m)
    else (loadCoeffs c p b m, m)
  | none => (loadCoeffs c p b m, m)

/-- The validation of SET_FACTORS and GET_FACTORS on IIR (40_common.md R241). -/
def checkIirFactors (c : Params) (p : Pend) : Option ErrCode := checkExact (c.numB + c.numA) c p

/-- The CMD write of IIR PROCESS (43_iir.md R410). -/
def execIirProcess (s : State) : Host.Outcome State Fault Refusal :=
  issue .iirProcess checkAnyLength engineIirProcess s

/-- The CMD write of IIR PROCESS1 (43_iir.md R411). -/
def execIirProcess1 (s : State) : Host.Outcome State Fault Refusal :=
  issue .iirProcess1 checkNothing engineIirProcess1 s

/-- The CMD write of IIR RESET (43_iir.md R430). -/
def execIirReset (s : State) : Host.Outcome State Fault Refusal :=
  issue .iirReset checkNothing engineIirReset s

/-- The CMD write of IIR SET_FACTORS (40_common.md R260). -/
def execIirSetFactors (s : State) : Host.Outcome State Fault Refusal :=
  issue .iirSetFactors checkIirFactors engineIirSetFactors s

/-- The CMD write of IIR GET_FACTORS (40_common.md R261). -/
def execIirGetFactors (s : State) : Host.Outcome State Fault Refusal :=
  issue .iirGetFactors checkIirFactors engineIirGetFactors s

/-- The CMD write of IIR SET_COEFFS (43_iir.md R420). -/
def execIirSetCoeffs (s : State) : Host.Outcome State Fault Refusal :=
  issue .iirSetCoeffs checkCoeffs engineIirSetCoeffs s

end Sys2Proof.Machine
end

