-- ==== Sys2Proof/Machine/Rom.lean ====
section
/-! DEFINITION. The window-coefficient ROM (44_window.md R450, R451): the source's formulas evaluated in 256-bit
fixed point and rounded once to FLT. -/

namespace Sys2Proof.Machine

/-- The three tables of the ROM (44_window.md R450). -/
inductive Table where
  | hamming
  | hann
  | blackman
  deriving DecidableEq, Repr

/-- One, in the ROM's fixed point: 256 fraction bits. -/
def fixOne : Nat := 2 ^ 256

/-- π in the ROM's fixed point, rounded down. -/
def fixPi : Nat := 363771576891766324280234942777729862653393377328392429958772151117938894466185

/-- The nested tail of the cosine series from its k-th step on, with x2 the square of the angle:
1 - x2 / ((2k-1) 2k) * (the tail from step k+1 on). -/
def cosTail (x2 : Nat) : Nat → Nat → Nat
  | _, 0 => fixOne
  | k, n + 1 => fixOne - x2 * cosTail x2 (k + 1) n / fixOne / ((2 * k - 1) * (2 * k))

/-- cos(π a / d) in fixed point for 0 ≤ a ≤ d/2: exact where the cosine is 1, 1/2 or 0, else 40 steps of the series,
whose truncation error lies below 2^(-256) (log 14). -/
def cosQuad (a d : Nat) : Nat :=
  if a = 0 then fixOne
  else if 2 * a = d then 0
  else if 3 * a = d then fixOne / 2
  else cosTail (fixPi * a / d * (fixPi * a / d) / fixOne) 1 40

/-- cos(2π r / d) in fixed point, the angle brought into the first quarter turn by whole-number arithmetic. -/
def cosTurn (r d : Nat) : Int :=
  let a := 2 * min (r % d) (d - r % d)
  if 2 * a ≤ d then (cosQuad a d : Int) else -(cosQuad (d - a) d : Int)

/-- 100 times the real value of an entry in fixed point (44_window.md R451), with θ = 2πn / (N-1). -/
def tableValue (t : Table) (size n : Nat) : Int :=
  let c1 := cosTurn n (size - 1)
  let c2 := cosTurn (2 * n) (size - 1)
  match t with
  | .hamming => 54 * (fixOne : Int) - 46 * c1
  | .hann => 50 * (fixOne : Int) - 50 * c1
  | .blackman => 42 * (fixOne : Int) - 50 * c1 + 8 * c2

/-- Entry n of a ROM table for an instance with WIN_SIZE = size ≥ 2 (44_window.md R451). -/
def romEntry (t : Table) (f : Fmt) (size n : Nat) : Flt :=
  packFlt f false (roundMag f ((tableValue t size n).toNat * 2 ^ quantumExp f) (100 * fixOne))

/-- A whole ROM table. -/
def romTable (t : Table) (f : Fmt) (size : Nat) : List Flt :=
  (List.range size).map (fun n => romEntry t f size n)

end Sys2Proof.Machine
end

