-- ==== Sys2Proof/Machine/Window.lean ====
section
/-! DEFINITION. The window unit (44_window.md). -/

namespace Sys2Proof.Machine

/-- One windowed sample (44_window.md R470): the sample times the coefficient at its position. -/
def windowSample (c : Params) (b : Bank) (x : Flt) (k : Nat) : Bank × Flt :=
  (b.useDraws 1, fmul c.fmt (Config.nanDraw .win b.draws) x (b.coef.getD k fltZero))

/-- PROCESS on WIN (44_window.md R470). -/
def engineWinProcess : Engine := fun c p fail b m =>
  processLoop c.fmt .win (windowSample c) p.addr.toNat fail p.len.toNat 0 b m

/-- SET_FACTORS on WIN (40_common.md R260). -/
def engineWinSetFactors : Engine := fun c p fail b m => setFactors c.fmt c.winSize p fail b m

/-- GET_FACTORS on WIN (40_common.md R261). -/
def engineWinGetFactors : Engine := fun c p fail b m => getFactors c.fmt .win c.winSize p fail b m

/-- SETUP_RECT (44_window.md R460): it acts at every size. -/
def engineWinSetupRect : Engine := fun c _ _ b m =>
  ({ b with coef := List.replicate c.winSize (fltOne c.fmt) }, m)

/-- A cosine setup: no effect when N ≤ 1, else the ROM table (44_window.md R461 to R463). -/
def setupTable (t : Table) (c : Params) (b : Bank) : Bank :=
  if c.winSize ≤ 1 then b else { b with coef := romTable t c.fmt c.winSize }

/-- SETUP_HAMMING (44_window.md R461). -/
def engineWinSetupHamming : Engine := fun c _ _ b m => (setupTable .hamming c b, m)

/-- SETUP_HANN (44_window.md R462). -/
def engineWinSetupHann : Engine := fun c _ _ b m => (setupTable .hann c b, m)

/-- SETUP_BLACKMAN (44_window.md R463). -/
def engineWinSetupBlackman : Engine := fun c _ _ b m => (setupTable .blackman c b, m)

/-- The validation of PROCESS, SET_FACTORS and GET_FACTORS on WIN: LEN = WIN_SIZE (40_common.md R241). -/
def checkWinExact (c : Params) (p : Pend) : Option ErrCode := checkExact c.winSize c p

/-- The CMD write of WIN PROCESS (44_window.md R470). -/
def execWinProcess (s : State) : Host.Outcome State Fault Refusal :=
  issue .winProcess checkWinExact engineWinProcess s

/-- The CMD write of WIN SET_FACTORS (40_common.md R260). -/
def execWinSetFactors (s : State) : Host.Outcome State Fault Refusal :=
  issue .winSetFactors checkWinExact engineWinSetFactors s

/-- The CMD write of WIN GET_FACTORS (40_common.md R261). -/
def execWinGetFactors (s : State) : Host.Outcome State Fault Refusal :=
  issue .winGetFactors checkWinExact engineWinGetFactors s

/-- The CMD write of WIN SETUP_RECT (44_window.md R460). -/
def execWinSetupRect (s : State) : Host.Outcome State Fault Refusal :=
  issue .winSetupRect checkNothing engineWinSetupRect s

/-- The CMD write of WIN SETUP_HAMMING (44_window.md R461). -/
def execWinSetupHamming (s : State) : Host.Outcome State Fault Refusal :=
  issue .winSetupHamming checkNothing engineWinSetupHamming s

/-- The CMD write of WIN SETUP_HANN (44_window.md R462). -/
def execWinSetupHann (s : State) : Host.Outcome State Fault Refusal :=
  issue .winSetupHann checkNothing engineWinSetupHann s

/-- The CMD write of WIN SETUP_BLACKMAN (44_window.md R463). -/
def execWinSetupBlackman (s : State) : Host.Outcome State Fault Refusal :=
  issue .winSetupBlackman checkNothing engineWinSetupBlackman s

end Sys2Proof.Machine
end

