-- ==== Sys2Proof/Machine/Engine.lean ====
section
/-! DEFINITION. The engines of all commands by name (40_common.md R234), the engine's own turn, and the block reset with
its effect on commands in flight (70_reset_and_hazards.md R550, R551). -/

namespace Sys2Proof.Machine

/-- The engine rule a latched command executes (40_common.md R234). -/
def engineOf : Instr → Engine
  | .firProcess => engineFirProcess
  | .firProcess1 => engineFirProcess1
  | .firReset => engineFirReset
  | .firSetFactors => engineFirSetFactors
  | .firGetFactors => engineFirGetFactors
  | .firDesignLowpass => engineFirDesignLowpass
  | .firDesignHighpass => engineFirDesignHighpass
  | .firDesignBandpass => engineFirDesignBandpass
  | .iirProcess => engineIirProcess
  | .iirProcess1 => engineIirProcess1
  | .iirReset => engineIirReset
  | .iirSetFactors => engineIirSetFactors
  | .iirGetFactors => engineIirGetFactors
  | .iirSetCoeffs => engineIirSetCoeffs
  | .winProcess => engineWinProcess
  | .winSetFactors => engineWinSetFactors
  | .winGetFactors => engineWinGetFactors
  | .winSetupRect => engineWinSetupRect
  | .winSetupHamming => engineWinSetupHamming
  | .winSetupHann => engineWinSetupHann
  | .winSetupBlackman => engineWinSetupBlackman

/-- The validation of each command, `validate(u, op)` (40_common.md R241). -/
def checkOf : Instr → Params → Pend → Option ErrCode
  | .firProcess => checkAnyLength
  | .firProcess1 => checkNothing
  | .firReset => checkNothing
  | .firSetFactors => checkFirFactors
  | .firGetFactors => checkFirFactors
  | .firDesignLowpass => checkFreq
  | .firDesignHighpass => checkFreq
  | .firDesignBandpass => checkBand
  | .iirProcess => checkAnyLength
  | .iirProcess1 => checkNothing
  | .iirReset => checkNothing
  | .iirSetFactors => checkIirFactors
  | .iirGetFactors => checkIirFactors
  | .iirSetCoeffs => checkCoeffs
  | .winProcess => checkWinExact
  | .winSetFactors => checkWinExact
  | .winGetFactors => checkWinExact
  | .winSetupRect => checkNothing
  | .winSetupHamming => checkNothing
  | .winSetupHann => checkNothing
  | .winSetupBlackman => checkNothing

/-- The turn of unit u's engine: an in-flight command executes and completes; an idle engine does nothing
(40_common.md R234, R235; 60_exceptions.md R535). -/
def engineTurn (u : UnitId) (fail : Option Nat) (s : State) : State :=
  match (s.bank u).pend with
  | none => s
  | some p => runEngine u (engineOf p.op) p fail s

/-- How many elements of system memory a command writes at most (70_reset_and_hazards.md R551). -/
def writtenElements (c : Params) (p : Pend) : Nat :=
  match p.op with
  | .firProcess | .iirProcess | .winProcess => p.len.toNat
  | .firGetFactors | .iirGetFactors | .winGetFactors => c.nc p.op.unit
  | .firProcess1 | .firReset | .firSetFactors | .firDesignLowpass | .firDesignHighpass | .firDesignBandpass
  | .iirProcess1 | .iirReset | .iirSetFactors | .iirSetCoeffs
  | .winSetFactors | .winSetupRect | .winSetupHamming | .winSetupHann | .winSetupBlackman => 0

/-- Memory after the first k written elements of a command, the rest abandoned (70_reset_and_hazards.md R551). -/
def memAfterPrefix (c : Params) (p : Pend) (k : Nat) (b : Bank) (m : Memory) : Memory :=
  match p.op with
  | .firProcess => (processLoop c.fmt .fir (fun b x _ => stepFir c b x) p.addr.toNat none k 0 b m).2
  | .iirProcess => (processLoop c.fmt .iir (fun b x _ => stepIir c b x) p.addr.toNat none k 0 b m).2
  | .winProcess => (processLoop c.fmt .win (windowSample c) p.addr.toNat none k 0 b m).2
  | .firGetFactors | .iirGetFactors | .winGetFactors =>
    (storeLoop c.fmt p.op.unit p.addr.toNat none ((coefVector b (c.nc p.op.unit)).take k) 0 b m).2
  | .firProcess1 | .firReset | .firSetFactors | .firDesignLowpass | .firDesignHighpass | .firDesignBandpass
  | .iirProcess1 | .iirReset | .iirSetFactors | .iirSetCoeffs
  | .winSetFactors | .winSetupRect | .winSetupHamming | .winSetupHann | .winSetupBlackman => m

/-- System memory when `rst` abandons what unit u has in flight: a prefix of the writes, its length the free value
drawn with n (70_reset_and_hazards.md R551; log 12). -/
def abandon (s : State) (n : Nat) (u : UnitId) (m : Memory) : Memory :=
  match (s.bank u).pend with
  | none => m
  | some p => memAfterPrefix s.cfg p (Config.resetPrefix n % (writtenElements s.cfg p + 1)) (s.bank u) m

/-- Unit u's counter of free values after `rst`: it goes on past all that the abandoned command could have taken, so no
NaN after the reset repeats one which that command left in memory or showed in DOUT (00_scope.md R20; logs 4, 12). -/
def drawsAfterReset (s : State) (u : UnitId) : Nat :=
  match (s.bank u).pend with
  | none => (s.bank u).draws
  | some p => (engineOf p.op s.cfg p none (s.bank u) s.mem).1.draws

/-- Assertion of `rst`: one atomic transition of the whole block (70_reset_and_hazards.md R550, R551). The inputs and
what the host got back are outside the block and stay, and the counters of free values go on (log 23). -/
def blockReset (s : State) : State :=
  { s with
    fir := Bank.reset s.cfg .fir (drawsAfterReset s .fir)
    iir := Bank.reset s.cfg .iir (drawsAfterReset s .iir)
    win := Bank.reset s.cfg .win (drawsAfterReset s .win)
    mem := abandon s (s.freeCtr + 2) .win (abandon s (s.freeCtr + 1) .iir (abandon s s.freeCtr .fir s.mem))
    freeCtr := s.freeCtr + 3 }

end Sys2Proof.Machine
end

