-- ==== Sys2Proof/Machine/Dispatch.lean ====
section
/-! DEFINITION. One arm per command: the CMD write of its word. -/

namespace Sys2Proof.Machine

def exec (i : Instr) (s : State) : Host.Outcome State Fault Refusal :=
  match i with
  | .firProcess => Sys2Proof.Machine.execFirProcess s
  | .firProcess1 => Sys2Proof.Machine.execFirProcess1 s
  | .firReset => Sys2Proof.Machine.execFirReset s
  | .firSetFactors => Sys2Proof.Machine.execFirSetFactors s
  | .firGetFactors => Sys2Proof.Machine.execFirGetFactors s
  | .firDesignLowpass => Sys2Proof.Machine.execFirDesignLowpass s
  | .firDesignHighpass => Sys2Proof.Machine.execFirDesignHighpass s
  | .firDesignBandpass => Sys2Proof.Machine.execFirDesignBandpass s
  | .iirProcess => Sys2Proof.Machine.execIirProcess s
  | .iirProcess1 => Sys2Proof.Machine.execIirProcess1 s
  | .iirReset => Sys2Proof.Machine.execIirReset s
  | .iirSetFactors => Sys2Proof.Machine.execIirSetFactors s
  | .iirGetFactors => Sys2Proof.Machine.execIirGetFactors s
  | .iirSetCoeffs => Sys2Proof.Machine.execIirSetCoeffs s
  | .winProcess => Sys2Proof.Machine.execWinProcess s
  | .winSetFactors => Sys2Proof.Machine.execWinSetFactors s
  | .winGetFactors => Sys2Proof.Machine.execWinGetFactors s
  | .winSetupRect => Sys2Proof.Machine.execWinSetupRect s
  | .winSetupHamming => Sys2Proof.Machine.execWinSetupHamming s
  | .winSetupHann => Sys2Proof.Machine.execWinSetupHann s
  | .winSetupBlackman => Sys2Proof.Machine.execWinSetupBlackman s

end Sys2Proof.Machine
end

