-- ==== Sys2Proof/Machine/Registers.lean ====
section
/-! DEFINITION. The register map (10_state.md R61) and what a register read or write does (R62 to R91,
40_common.md R250 to R256, 70_reset_and_hazards.md R562). -/

namespace Sys2Proof.Machine

/-- The FLT registers (10_state.md R61, R86 to R91). -/
inductive FltReg where
  | freqA
  | freqB
  | din
  | dout
  | cdata
  | hdata
  deriving DecidableEq, Repr

/-- The words of a bank (10_state.md R61). -/
inductive Reg where
  | id
  | size0
  | size1
  | ctrl
  | status
  | cmd
  | addr
  | addr2
  | len
  | len2
  | prog
  | cidx
  | hidx
  | head
  | errAddr
  | lo (r : FltReg)
  | hi (r : FltReg)
  deriving DecidableEq, Repr

/-- The register at a bank offset; none is RAZ/WI (10_state.md R61, R63). -/
def regAt : Nat → Option Reg
  | 0x00 => some .id
  | 0x04 => some .size0
  | 0x08 => some .size1
  | 0x0C => some .ctrl
  | 0x10 => some .status
  | 0x14 => some .cmd
  | 0x18 => some .addr
  | 0x1C => some .addr2
  | 0x20 => some .len
  | 0x24 => some .len2
  | 0x28 => some .prog
  | 0x2C => some .cidx
  | 0x30 => some .hidx
  | 0x34 => some .head
  | 0x38 => some .errAddr
  | 0x40 => some (.lo .freqA)
  | 0x44 => some (.hi .freqA)
  | 0x48 => some (.lo .freqB)
  | 0x4C => some (.hi .freqB)
  | 0x50 => some (.lo .din)
  | 0x54 => some (.hi .din)
  | 0x58 => some (.lo .dout)
  | 0x5C => some (.hi .dout)
  | 0x60 => some (.lo .cdata)
  | 0x64 => some (.hi .cdata)
  | 0x68 => some (.lo .hdata)
  | 0x6C => some (.hi .hdata)
  | _ => none

/-- The unit whose bank a block offset lies in; 0x300 to 0x3FF are reserved (10_state.md R50, R63). -/
def unitAt (off : Nat) : Option UnitId :=
  match off / 0x100 with
  | 0 => some .fir
  | 1 => some .iir
  | 2 => some .win
  | _ => none

/-- The low word of an FLT value (10_state.md R65, R66). -/
def loWord (v : Flt) : Word := v.extractLsb' 0 32

/-- The high word of an FLT value (10_state.md R65). -/
def hiWord (v : Flt) : Word := v.extractLsb' 32 32

/-- A 64-bit value of two words (10_state.md R64). -/
def joinWords (hi lo : Word) : Flt := hi ++ lo

/-! ### State access while idle (40_common.md R250 to R256) -/

/-- What stops a CDATA access: a command in flight, then an index out of range (40_common.md R251, R252). -/
def cdataStop (c : Params) (u : UnitId) (b : Bank) : Option ErrCode :=
  if b.busy then some .busy else if c.nc u ≤ b.cidx.toNat then some .indexOob else none

/-- What stops an HDATA access (40_common.md R253, R254). -/
def hdataStop (c : Params) (u : UnitId) (b : Bank) : Option ErrCode :=
  if b.busy then some .busy else if c.nh u ≤ b.hidx.toNat then some .indexOob else none

/-- What stops a HEAD write of w in the FIR bank (40_common.md R256). -/
def headStop (c : Params) (b : Bank) (w : Word) : Option ErrCode :=
  if b.busy then some .busy else if c.firSize ≤ w.toNat then some .indexOob else none

/-- The commit action of an FLT register write with value v (10_state.md R64, R66; 40_common.md R252, R254). DOUT is
read-only. -/
def commitFlt (c : Params) (u : UnitId) (r : FltReg) (v : Flt) (b : Bank) : Bank :=
  match r with
  | .freqA => { b with freqA := v }
  | .freqB => { b with freqB := v }
  | .din => { b with din := v }
  | .dout => b
  | .cdata =>
    match cdataStop c u b with
    | some e => b.raise e
    | none => { b with coef := b.coef.set b.cidx.toNat v }
  | .hdata =>
    match hdataStop c u b with
    | some e => b.raise e
    | none => { b with hist := b.hist.set b.hidx.toNat v }

/-- The staging latch of an FLT register (10_state.md R57). DOUT has none. -/
def Bank.stage (b : Bank) : FltReg → Word
  | .freqA => b.stFreqA
  | .freqB => b.stFreqB
  | .din => b.stDin
  | .dout => 0#32
  | .cdata => b.stCdata
  | .hdata => b.stHdata

/-- A write of the LO word with FW = 64: the latch, nothing else (10_state.md R64). -/
def Bank.setStage (b : Bank) (r : FltReg) (w : Word) : Bank :=
  match r with
  | .freqA => { b with stFreqA := w }
  | .freqB => { b with stFreqB := w }
  | .din => { b with stDin := w }
  | .dout => b
  | .cdata => { b with stCdata := w }
  | .hdata => { b with stHdata := w }

/-- A write of an FLT register's LO word (10_state.md R64, R66). -/
def writeLo (c : Params) (u : UnitId) (r : FltReg) (w : Word) (b : Bank) : Bank :=
  match c.fmt with
  | .b32 => commitFlt c u r (joinWords 0#32 w) b
  | .b64 => b.setStage r w

/-- A write of an FLT register's HI word (10_state.md R64, R66). -/
def writeHi (c : Params) (u : UnitId) (r : FltReg) (w : Word) (b : Bank) : Bank :=
  match c.fmt with
  | .b32 => b
  | .b64 => commitFlt c u r (joinWords w (b.stage r)) b

/-- A write of w to a register other than CMD (10_state.md R61, R62). CMD is the CMD write of Agents.lean. -/
def writeReg (c : Params) (u : UnitId) (r : Reg) (w : Word) (b : Bank) : Bank :=
  match r with
  | .id | .size0 | .size1 | .prog | .errAddr | .cmd => b
  | .ctrl => b.writeCtrl w
  | .status => b.clearStatus w
  | .addr => { b with addr := w }
  | .addr2 => { b with addr2 := w }
  | .len => { b with len := w }
  | .len2 => { b with len2 := w }
  | .cidx => { b with cidx := w }
  | .hidx => { b with hidx := w }
  | .head =>
    match u with
    | .fir =>
      match headStop c b w with
      | some e => b.raise e
      | none => { b with head := w.toNat }
    | .iir => b
    | .win => b
  | .lo f => writeLo c u f w b
  | .hi f => writeHi c u f w b

/-! ### Reads -/

/-- The bus error, if any, that unit u's next turn in the schedule carries: the answers the in-flight command will get.
A command that `rst` will abandon before that turn leaves no value, and the spec states no bound for a PROG read of it
(10_state.md R81, 70_reset_and_hazards.md R562): DESIGN CHOICE, what it would leave without a bus error, the widest bound
(log 10). -/
def nextFail (u : UnitId) : List Turn → Option Nat
  | [] => none
  | .engine v fail :: rest => if v = u then fail else nextFail u rest
  | .host :: rest => nextFail u rest
  | .rst :: _ => none

/-- The bank the in-flight command p of unit u will leave (would leave, if `rst` comes first: `nextFail`), which bounds what
reads while busy may return (70_reset_and_hazards.md R562; logs 10, 11). -/
def outcomeOf (s : State) (u : UnitId) (p : Pend) : Bank :=
  (engineOf p.op s.cfg p (nextFail u s.sched) (s.bank u) s.mem).1

/-- The value a PROG read while busy returns: not below the last one read, not above the final one (R562; log 10). -/
def progWhileBusy (n seen final : Nat) : Nat := seen + Config.progDraw n % (final - seen + 1)

/-- A PROG read (10_state.md R81; 70_reset_and_hazards.md R562). -/
def readProg (s : State) (u : UnitId) : Word × State :=
  let b := s.bank u
  match b.pend with
  | none => (b.prog, s)
  | some p =>
    let v := progWhileBusy s.freeCtr b.progSeen (outcomeOf s u p).prog.toNat
    (BitVec.ofNat 32 v, (s.setBank u { b with progSeen := v }).tick)

/-- A HEAD read: the FIR's head, a free value below FIR_SIZE while it is busy; RAZ in the other banks
(10_state.md R84; 40_common.md R255; 70_reset_and_hazards.md R562; log 9). -/
def readHead (s : State) (u : UnitId) : Word × State :=
  match u with
  | .fir =>
    if s.fir.busy then (BitVec.ofNat 32 (Config.headDraw s.freeCtr % s.cfg.firSize), s.tick)
    else (BitVec.ofNat 32 s.fir.head, s)
  | .iir => (0#32, s)
  | .win => (0#32, s)

/-- A read of one word of DOUT, `word` choosing it: while busy the old or the new value of that word
(70_reset_and_hazards.md R562; log 11). -/
def readDout (s : State) (u : UnitId) (word : Flt → Word) : Word × State :=
  let b := s.bank u
  match b.pend with
  | none => (word b.dout, s)
  | some p =>
    (if Config.doutDraw s.freeCtr then word (outcomeOf s u p).dout else word b.dout, s.tick)

/-- A read of one word of an FLT register (10_state.md R65; 40_common.md R251, R253): a refused read returns 0 and records
its error. -/
def readFltWord (s : State) (u : UnitId) (r : FltReg) (word : Flt → Word) : Word × State :=
  let b := s.bank u
  match r with
  | .freqA => (word b.freqA, s)
  | .freqB => (word b.freqB, s)
  | .din => (word b.din, s)
  | .dout => readDout s u word
  | .cdata =>
    match cdataStop s.cfg u b with
    | some e => (0#32, s.raiseIn u e)
    | none => (word (b.coef.getD b.cidx.toNat fltZero), s)
  | .hdata =>
    match hdataStop s.cfg u b with
    | some e => (0#32, s.raiseIn u e)
    | none => (word (b.hist.getD b.hidx.toNat fltZero), s)

/-- A register read (10_state.md R61, R62): the word it returns and the state it leaves. -/
def readReg (s : State) (u : UnitId) (r : Reg) : Word × State :=
  let b := s.bank u
  match r with
  | .id => (idWord s.cfg u, s)
  | .size0 => (size0Word s.cfg u, s)
  | .size1 => (size1Word s.cfg u, s)
  | .ctrl => (ctrlWord b, s)
  | .status => (statusWord b, s)
  | .cmd => (0#32, s)
  | .addr => (b.addr, s)
  | .addr2 => (b.addr2, s)
  | .len => (b.len, s)
  | .len2 => (b.len2, s)
  | .prog => readProg s u
  | .cidx => (b.cidx, s)
  | .hidx => (b.hidx, s)
  | .head => readHead s u
  | .errAddr => (b.errAddr, s)
  | .lo f => readFltWord s u f loWord
  | .hi f =>
    match s.cfg.fmt with
    | .b32 => (0#32, s)
    | .b64 => readFltWord s u f hiWord

end Sys2Proof.Machine
end

