-- ==== Sys2Proof/Machine/Agents.lean ====
section
/-! DEFINITION. The host's bus accesses (20_memory.md R130 to R133, R162) and which agent makes a transition
(60_exceptions.md R506, 70_reset_and_hazards.md R570, R572). -/

namespace Sys2Proof.Machine

/-- Where a host access goes. -/
inductive Route where
  | register (off : Nat)
  | badRegister
  | memory
  | outside
  deriving DecidableEq, Repr

/-- Routing by address and width: inside the block's window only aligned 32-bit accesses are register accesses
(20_memory.md R131); elsewhere accesses of 1, 2, 4 or 8 bytes inside the 2^32-byte space reach system memory (R130;
log 16). -/
def route (c : Params) (addr width : Nat) : Route :=
  if c.blockBase ≤ addr ∧ addr < c.blockBase + 0x400 then
    if width = 4 ∧ (addr - c.blockBase) % 4 = 0 then .register (addr - c.blockBase) else .badRegister
  else if (width = 1 ∨ width = 2 ∨ width = 4 ∨ width = 8) ∧ addr + width ≤ 2 ^ 32
      ∧ ¬(addr < c.blockBase ∧ c.blockBase < addr + width) then .memory
  else .outside

/-- A write of w to a unit's CMD register (40_common.md R230): the command the word decodes to runs; an ILLEGAL word is
rejected. -/
def writeCmd (u : UnitId) (w : Word) (s : State) : Host.Outcome State Fault Refusal :=
  match decode s.cfg.hasDesign u w with
  | .command i => exec i s
  | .illegal _ => .next (rejectIllegal u s)

/-- A 32-bit write of w at a block offset. -/
def writeBlock (off : Nat) (w : Word) (s : State) : Host.Outcome State Fault Refusal :=
  match unitAt off, regAt (off % 0x100) with
  | some u, some .cmd => writeCmd u w s
  | some u, some r => .next (s.setBank u (writeReg s.cfg u r w (s.bank u)))
  | _, _ => .next s

/-- A 32-bit read at a block offset: the word and the state it leaves. -/
def readBlock (off : Nat) (s : State) : Word × State :=
  match unitAt off, regAt (off % 0x100) with
  | some u, some r => readReg s u r
  | _, _ => (0#32, s)

/-- A host write of `width` bytes. -/
def hostWrite (addr width : Nat) (data : BitVec 64) (s : State) : Host.Outcome State Fault Refusal :=
  match route s.cfg addr width with
  | .register off => writeBlock off (data.setWidth 32) s
  | .badRegister => .next (s.push .busError)
  | .memory =>
    match hostRaceOf s addr width with
    | some u => .fault (.hostRace u)
    | none => .next (s.withMem (writeBytes s.mem addr width data.toNat))
  | .outside => .next (s.push .busError)

/-- A host read of `width` bytes. -/
def hostRead (addr width : Nat) (s : State) : Host.Outcome State Fault Refusal :=
  match route s.cfg addr width with
  | .register off =>
    let r := readBlock off s
    .next (r.2.push (.data (r.1.setWidth 64)))
  | .badRegister => .next (s.push .busError)
  | .memory =>
    match hostRaceOf s addr width with
    | some u => .fault (.hostRace u)
    | none => .next (s.push (.data (BitVec.ofNat 64 (readBytes s.mem addr width))))
  | .outside => .next (s.push .busError)

/-- One turn of the polling loop `wait` (30_encoding.md R200): a STATUS read, repeated while BUSY. -/
def hostWait (u : UnitId) (rest : List HostOp) (s : State) : State :=
  let s1 := s.push (.data ((statusWord (s.bank u)).setWidth 64))
  if (s.bank u).busy then s1 else s1.withHost rest

/-- The host's turn: its next bus access; with its program over it does nothing. -/
def hostTurn (s : State) : Host.Outcome State Fault Refusal :=
  match s.host with
  | [] => .next s
  | .write addr width data :: rest => hostWrite addr width data (s.withHost rest)
  | .read addr width :: rest => hostRead addr width (s.withHost rest)
  | .wait u :: rest => .next (hostWait u rest s)

/-- The first unit in flight. -/
def firstBusy (s : State) : Option UnitId :=
  [UnitId.fir, .iir, .win].find? (fun u => (s.bank u).busy)

/-- The transition of the agent the schedule names; with the schedule exhausted, engines in flight move before the host,
so every command completes (70_reset_and_hazards.md R570; log 7). -/
def transition (s : State) : Host.Outcome State Fault Refusal :=
  match s.sched with
  | .host :: rest => hostTurn (s.withSched rest)
  | .engine u fail :: rest => .next (engineTurn u fail (s.withSched rest))
  | .rst :: rest => .next (blockReset (s.withSched rest))
  | [] =>
    match firstBusy s with
    | some u => .next (engineTurn u none s)
    | none => hostTurn s

end Sys2Proof.Machine
end

