-- ==== Sys2Proof/Machine/Step.lean ====
section
/-! DEFINITION. One step of the machine, and the host's placing of a command word. -/

namespace Sys2Proof.Machine

/-- One transition of one agent. -/
def step (s : State) : Host.Outcome State Fault Refusal := transition s

/-- The state in which the very next step is the CMD write of word w to the unit `tableUnit` chooses: the write stands
first in the host's program and the host has the next turn (log 15). -/
def State.withFetchWord (s : State) (nbits w : Nat) : State :=
  let word : Word := BitVec.ofNat 32 (w % 2 ^ nbits)
  { s with
    host := .write (cmdAddress s.cfg.blockBase (tableUnit word)) 4 (word.setWidth 64) :: s.host
    sched := .host :: s.sched }

end Sys2Proof.Machine
end

