-- ==== Sys2Proof/Safety.lean ====
section
/-! DEFINITION. What a safe state and a normally executing command are, in the terms the claims use. -/

namespace Sys2Proof.Machine

/-- A value is an encoding of the instance's format (00_scope.md R17). -/
def Fits (f : Fmt) (x : Flt) : Prop := x.toNat < 2 ^ fltWidth f

/-- What holds of an in-flight record: it is a command of its unit that passed validation and meets no model fault
(10_state.md R56, 40_common.md R230). -/
structure PendInv (c : Params) (u : UnitId) (p : Pend) : Prop where
  unit    : p.op.unit = u
  legal   : p.op.wf c = true
  checked : checkOf p.op c p = none
  window  : hitsWindow c p = false
  fits    : Fits c.fmt p.fa ∧ Fits c.fmt p.fb ∧ Fits c.fmt p.din

/-- What holds of a bank: the lengths of R51 to R54, head in range (R52), every FLT of the format (R17), the latches 0
when FW = 32 (where the spec has none: the model's choice, log 20), ERRADDR 0 unless BUS_ERROR is recorded (R85), and the
in-flight record. -/
structure BankInv (c : Params) (u : UnitId) (b : Bank) : Prop where
  coefLen : b.coef.length = c.nc u
  histLen : b.hist.length = c.nh u
  head    : if u = .fir then b.head < c.firSize else b.head = 0
  coefFit : ∀ x ∈ b.coef, Fits c.fmt x
  histFit : ∀ x ∈ b.hist, Fits c.fmt x
  regsFit : Fits c.fmt b.freqA ∧ Fits c.fmt b.freqB ∧ Fits c.fmt b.din ∧ Fits c.fmt b.dout
  latches : c.fmt = .b32 → b.stFreqA = 0#32 ∧ b.stFreqB = 0#32 ∧ b.stDin = 0#32 ∧ b.stCdata = 0#32 ∧ b.stHdata = 0#32
  errAddr : b.errAddr = 0#32 ∨ b.err = some .busError
  pend    : ∀ p, b.pend = some p → PendInv c u p

/-- The machine's invariant: a legal instance, three sound banks, canonical memory (log 2) inside the 2^32-byte space, no
two units in flight on conflicting ranges, and the last PROG value read of a command in flight at most the final one (log
10; here and not in `BankInv`, because the final one depends on the schedule). -/
structure Inv (s : State) : Prop where
  legal    : s.cfg.legal = true
  banks    : ∀ u, BankInv s.cfg u (s.bank u)
  memWf    : Memory.wf s.mem = true
  memTop   : ∀ c ∈ s.mem, c.1 < 2 ^ 32
  noRace   : ∀ u v p q, u ≠ v → (s.bank u).pend = some p → (s.bank v).pend = some q → pendsConflict s.cfg p q = false
  progSeen : ∀ u p, (s.bank u).pend = some p → (s.bank u).progSeen ≤ (outcomeOf s u p).prog.toNat

/-- The record a CMD write of i would latch now. -/
def State.latched (s : State) (i : Instr) : Pend := latch i (s.bank i.unit)

/-- A CMD write of i is accepted: the unit is idle, the instance has the command, validation passes, and neither model
fault arises (40_common.md R230, 20_memory.md R151, R163). -/
structure Ready (i : Instr) (s : State) : Prop where
  idle   : (s.bank i.unit).busy = false
  legal  : i.wf s.cfg = true
  valid  : checkOf i s.cfg (s.latched i) = none
  window : hitsWindow s.cfg (s.latched i) = false
  noRace : raceOf s i.unit (s.latched i) = none

/-- A run has ended (70_reset_and_hazards.md R582): the host's program is over and every unit is idle. -/
def State.ended (s : State) : Prop := s.host = [] ∧ ∀ u, (s.bank u).busy = false

/-- A byte address inside a range. -/
def DmaRange.has (r : DmaRange) (a : Nat) : Prop := r.start ≤ a ∧ a < r.start + r.bytes

/-- A byte address a command may store to: one inside a written range of its footprint. -/
def storesTo (c : Params) (p : Pend) (a : Nat) : Prop := ∃ r ∈ footprint c p, r.writes = true ∧ r.has a

/-- The single-sample step applied to samples in order (40_common.md R242): the bank after them, and the outputs. -/
def filterStream (step : Bank → Flt → Bank × Flt) : Bank → List Flt → Bank × List Flt
  | b, [] => (b, [])
  | b, x :: xs =>
    let r := step b x
    let t := filterStream step r.1 xs
    (t.1, r.2 :: t.2)

end Sys2Proof.Machine
end

