-- ==== Sys2Proof/Certificates/Slice0/Obligations.lean ====
section
/-! DEFINITION. The statements for the provers. Each docstring names the rules of spec/ it speaks of. A command's
statement holds for every schedule that gives its engine the next turn, and for every free value. -/

open Sys2Proof Sys2Proof.Machine

/-! ### Encoding and fetch -/

/-- A word decodes to a command in a unit exactly when it is that command's encoding, the command is the unit's, and a
design command's sequencer is present (30_encoding.md R180, R181, R184 to R187). -/
def Obligations.DecodedWordIsTheEncodedCommand : Prop :=
  ∀ (hasDesign : Bool) (u : UnitId) (w : Word) (i : Instr),
    decode hasDesign u w = .command i ↔
      w = encode i ∧ i.unit = u ∧ (i.isDesign = true → hasDesign = true)

/-- Words written out from 30_encoding.md R184 and 95_test_vectors.md V-E1 decode to the commands they stand for. -/
def Obligations.SpecWordsDecode : Prop :=
  decode true .fir 0b00000000000000000000000000000001#32 = .command .firProcess ∧
  decode true .fir 0b00000000000000000000000000010010#32 = .command .firDesignBandpass ∧
  decode true .iir 0b00000000000000000000000000000110#32 = .command .iirSetCoeffs ∧
  decode true .iir 0b00000000000000000000000000000101#32 = .command .iirGetFactors ∧
  decode true .win 0b00000000000000000000000000100010#32 = .command .winSetupHann ∧
  decode true .win 0b00000000000000000000000000000010#32 = .illegal .notOfThisUnit ∧
  decode false .fir 0b00000000000000000000000000010000#32 = .illegal .designAbsent ∧
  decode true .fir 0b00000000000000000000000100000001#32 = .illegal .reservedBits ∧
  decode true .iir 0b00000000000000000000000000000000#32 = .illegal .unassigned

/-- A CMD write the decoder rejects changes only STATUS: DONE and ERR, and ERRCODE if ERR was 0 (40_common.md R231). -/
def Obligations.IllegalCommandChangesOnlyStatus : Prop :=
  ∀ (s : State) (u : UnitId) (w : Word) (why : IllegalWord),
    (s.bank u).busy = false → decode s.cfg.hasDesign u w = .illegal why →
    writeCmd u w s = .next (s.setBank u { s.bank u with
      done := true, err := some ((s.bank u).err.getD .illegalCmd) })

/-- The host's turn with a CMD write next runs the command the word decodes to (40_common.md R230, 30_encoding.md R201). That
the schedule names whose turn it is, that the host moves when the schedule is exhausted and every unit idle (log 7), and
that the host's program is a list in the state (log 8) are the model's choices. -/
def Obligations.StepRunsDecodedCommand : Prop :=
  ∀ (s : State) (u : UnitId) (w : Word) (rest : List HostOp) (i : Instr),
    s.host = .write (cmdAddress s.cfg.blockBase u) 4 (w.setWidth 64) :: rest →
    decode s.cfg.hasDesign u w = .command i →
    (∀ t, s.sched = .host :: t → step s = exec i ((s.withSched t).withHost rest)) ∧
    (s.sched = [] → (∀ v, (s.bank v).busy = false) → step s = exec i (s.withHost rest))

/-! ### The command lifecycle, for every command -/

/-- A CMD write while the unit is busy is dropped with BUSY, whatever the word, an ILLEGAL one too; DONE is unchanged
(40_common.md R230, 60_exceptions.md R500, R504). -/
def Obligations.BusyCommandIsDropped : Prop :=
  ∀ (s : State) (u : UnitId), (s.bank u).busy = true →
    (∀ w, writeCmd u w s = .next (s.setBank u { s.bank u with err := some ((s.bank u).err.getD .busy) })) ∧
    (∀ i : Instr, i.unit = u →
      exec i s = .next (s.setBank u { s.bank u with err := some ((s.bank u).err.getD .busy) }))

/-- A command that fails validation changes only STATUS (40_common.md R232, with 60_exceptions.md R500 for ERRCODE). -/
def Obligations.ValidationFailureChangesOnlyStatus : Prop :=
  ∀ (i : Instr) (s : State) (e : ErrCode),
    (s.bank i.unit).busy = false → i.wf s.cfg = true → checkOf i s.cfg (s.latched i) = some e →
    exec i s = .next (s.setBank i.unit { s.bank i.unit with
      done := true, err := some ((s.bank i.unit).err.getD e) })

/-- Acceptance latches the operands, clears PROG and sets busy, and leaves DONE (40_common.md R233); the engine's transition,
when it has the next turn, starts from that state. That this turn comes inside the step of the CMD write is the model's
choice (log 7), and progSeen is the model's own field (log 10). -/
def Obligations.AcceptanceLatchesOperands : Prop :=
  ∀ (i : Instr) (s : State), Ready i s →
    let b := s.bank i.unit
    let accepted := s.setBank i.unit { b with
      pend := some { op := i, addr := b.addr, addr2 := b.addr2, len := b.len, len2 := b.len2,
                     fa := b.freqA, fb := b.freqB, din := b.din },
      prog := 0#32, progSeen := 0 }
    (engineNext i.unit s.sched = none → exec i s = .next accepted) ∧
    (∀ fail rest, engineNext i.unit s.sched = some (fail, rest) →
      exec i s = .next (engineTurn i.unit fail (accepted.withSched rest)))

/-- Every accepted command whose engine moves next answers a next state in which it has completed: idle and DONE, whatever
the platform answers; the schedule is the rest, and no host access has been made (40_common.md R234, R235). -/
def Obligations.ReadyCommandCompletes : Prop :=
  ∀ (i : Instr) (s : State) (fail : Option Nat) (rest : List Turn),
    Ready i s → engineNext i.unit s.sched = some (fail, rest) →
    ∃ t, exec i s = .next t ∧ (t.bank i.unit).busy = false ∧ (t.bank i.unit).done = true ∧
      t.sched = rest ∧ t.host = s.host ∧ t.received = s.received

/-- An engine that moves right after its CMD write and one that waits give the same result from the same state: a command is
one atomic engine transition (20_memory.md R164, 40_common.md R234, R235). A step with an engine's turn next is that turn,
which changes nothing on an idle unit (60_exceptions.md R535); that the schedule names whose turn it is, and that with the
schedule exhausted the first unit in flight moves, FIR before IIR before WIN and without bus error, are the model's choices
(logs 6, 7). -/
def Obligations.DeferredEngineGivesTheSameResult : Prop :=
  (∀ (i : Instr) (s : State) (fail : Option Nat) (rest : List Turn), Ready i s →
    ∃ now later,
      exec i (s.withSched (.engine i.unit fail :: rest)) = .next now ∧
      exec i (s.withSched (.host :: rest)) = .next later ∧
      engineTurn i.unit fail (later.withSched rest) = now) ∧
  (∀ (s : State) (u : UnitId) (fail : Option Nat) (rest : List Turn), s.sched = .engine u fail :: rest →
    step s = .next (engineTurn u fail (s.withSched rest)) ∧
    ((s.bank u).busy = false → step s = .next (s.withSched rest))) ∧
  (∀ (s : State) (u : UnitId), s.sched = [] → (s.bank u).busy = true →
    (u = .fir ∨ s.fir.busy = false) → (u = .win → s.iir.busy = false) →
    step s = .next (engineTurn u none s))

/-- No command changes another unit's bank, nor the parameters, the host's program, what the host received or the counter of
the free values of reads (10_state.md R50, R55). -/
def Obligations.CommandTouchesOnlyItsUnit : Prop :=
  ∀ (i : Instr) (s t : State), exec i s = .next t →
    (∀ v, v ≠ i.unit → t.bank v = s.bank v) ∧
    t.cfg = s.cfg ∧ t.host = s.host ∧ t.received = s.received ∧ t.freeCtr = s.freeCtr

/-- The frame of every command in its own bank (10_state.md R50, R58, R77 to R91, 60_exceptions.md R501): no command writes
CTRL, the operand registers, the indexes or the latches; coefficients, history, head and DOUT are written only by the
commands named; DONE is never cleared, and ERR, ERRCODE, ERRADDR change only if ERR was 0. -/
def Obligations.CommandFrame : Prop :=
  ∀ (i : Instr) (s t : State), exec i s = .next t →
    let b := s.bank i.unit
    let b' := t.bank i.unit
    (b'.doneIe = b.doneIe ∧ b'.errIe = b.errIe ∧ b'.addr = b.addr ∧ b'.addr2 = b.addr2 ∧ b'.len = b.len ∧
      b'.len2 = b.len2 ∧ b'.cidx = b.cidx ∧ b'.hidx = b.hidx ∧ b'.freqA = b.freqA ∧ b'.freqB = b.freqB ∧
      b'.din = b.din ∧ b'.stFreqA = b.stFreqA ∧ b'.stFreqB = b.stFreqB ∧ b'.stDin = b.stDin ∧
      b'.stCdata = b.stCdata ∧ b'.stHdata = b.stHdata) ∧
    (i ∉ [Instr.firSetFactors, .firDesignLowpass, .firDesignHighpass, .firDesignBandpass, .iirReset, .iirSetFactors,
      .iirSetCoeffs, .winSetFactors, .winSetupRect, .winSetupHamming, .winSetupHann, .winSetupBlackman] →
      b'.coef = b.coef) ∧
    (i ∉ [Instr.firProcess, .firProcess1, .firReset, .iirProcess, .iirProcess1, .iirReset] → b'.hist = b.hist) ∧
    (i ∉ [Instr.firProcess, .firProcess1, .firReset] → b'.head = b.head) ∧
    (i ∉ [Instr.firProcess1, .iirProcess1] → b'.dout = b.dout) ∧
    (b.done = true → b'.done = true) ∧
    (b.err.isSome = true → b'.err = b.err ∧ b'.errAddr = b.errAddr)

/-- A command stores only inside the written ranges of the record it latches: every other byte of memory reads as before,
all of memory for a command without such a range (20_memory.md R142, R145, R162, 40_common.md R232). -/
def Obligations.CommandStoresOnlyInItsRanges : Prop :=
  ∀ (i : Instr) (s t : State), exec i s = .next t →
    ∀ a, ¬ storesTo s.cfg (s.latched i) a → memGet t.mem a = memGet s.mem a

/-- No step refuses, and a command stops only by the two faults the spec gives it (60_exceptions.md R540). -/
def Obligations.NothingIsRefused : Prop :=
  (∀ (s : State) (r : Refusal), step s ≠ .refused r) ∧
  (∀ (i : Instr) (s : State) (f : Fault), exec i s = .fault f →
    f = .windowOverlap i.unit ∨ ∃ v, v ≠ i.unit ∧ f = .unitRace i.unit v)

/-- The model faults of 60_exceptions.md R540: a command whose range overlaps the block's window, a command that conflicts
with one in flight on another unit, and a host access to an in-flight range (20_memory.md R151, 70_reset_and_hazards.md
R561). -/
def Obligations.HazardsFault : Prop :=
  (∀ (i : Instr) (s : State), (s.bank i.unit).busy = false → i.wf s.cfg = true →
    checkOf i s.cfg (s.latched i) = none → hitsWindow s.cfg (s.latched i) = true →
    exec i s = .fault (.windowOverlap i.unit)) ∧
  (∀ (i : Instr) (s : State) (v : UnitId) (q : Pend), (s.bank i.unit).busy = false → i.wf s.cfg = true →
    checkOf i s.cfg (s.latched i) = none → hitsWindow s.cfg (s.latched i) = false →
    v ≠ i.unit → (s.bank v).pend = some q → pendsConflict s.cfg (s.latched i) q = true →
    ∃ v', exec i s = .fault (.unitRace i.unit v')) ∧
  (∀ (s : State) (v : UnitId) (q : Pend) (r : DmaRange) (addr width : Nat) (data : BitVec 64),
    (s.bank v).pend = some q → r ∈ footprint s.cfg q → r.touches addr width = true →
    route s.cfg addr width = .memory →
    (∃ v', hostWrite addr width data s = .fault (.hostRace v')) ∧
    (∃ v', hostRead addr width s = .fault (.hostRace v')))

/-! ### Arithmetic -/

/-- Rounding delivers a nearest representable magnitude, ties to the even encoding, and infinity exactly from half way
between the largest finite value and the next power of two on (00_scope.md R18). -/
def Obligations.RoundingIsNearestEven : Prop :=
  ∀ (f : Fmt) (num den : Nat), 0 < den →
    (∀ m, m < infMag f → roundMag f num den < infMag f →
      let r := roundMag f num den
      ((magUnits f r * den : Nat) - (num : Int)).natAbs ≤ ((magUnits f m * den : Nat) - (num : Int)).natAbs ∧
      (m ≠ r → ((magUnits f r * den : Nat) - (num : Int)).natAbs = ((magUnits f m * den : Nat) - (num : Int)).natAbs →
        r % 2 = 0)) ∧
    (roundMag f num den = infMag f ↔
      (magUnits f (infMag f - 1) + magUnits f (infMag f)) * den ≤ 2 * num)

/-- Signed zeros (00_scope.md R19): sums of zeros, x - x, the sign of a zero product or quotient, and FNEG, which flips the
sign bit of any operand, a NaN's payload kept. -/
def Obligations.SignedZeroResults : Prop :=
  ∀ (f : Fmt) (q : BitVec 64),
    fadd f q fltZero (packFlt f true 0) = fltZero ∧
    fadd f q (packFlt f true 0) (packFlt f true 0) = packFlt f true 0 ∧
    (∀ x, isFinite f x = true → fsub f q x x = fltZero) ∧
    (∀ a b, isZero f (fmul f q a b) = true → fltNeg f (fmul f q a b) = (fltNeg f a != fltNeg f b)) ∧
    (∀ a b, isZero f (fdiv f q a b) = true → fltNeg f (fdiv f q a b) = (fltNeg f a != fltNeg f b)) ∧
    (∀ a, Fits f a → fneg f a = a ^^^ BitVec.ofNat 64 (signWeight f))

/-- A NaN operand gives the NaN of the free value; every NaN an operation delivers is quiet; and every quiet NaN of the
format is one the free value allows (00_scope.md R20). -/
def Obligations.NaNResultsAreAnyQuietNaN : Prop :=
  ∀ (f : Fmt),
    (∀ (q : BitVec 64) (a b : Flt), (isNaN f a || isNaN f b) = true →
      fadd f q a b = quietNaN f q ∧ fsub f q a b = quietNaN f q ∧ fmul f q a b = quietNaN f q ∧
      fdiv f q a b = quietNaN f q) ∧
    (∀ (q : BitVec 64) (a b r : Flt), isNaN f r = true →
      (r = fadd f q a b ∨ r = fsub f q a b ∨ r = fmul f q a b ∨ r = fdiv f q a b) →
      Fits f r ∧ r.toNat / 2 ^ (fracBits f - 1) % 2 = 1) ∧
    (∀ y : Flt, Fits f y → isNaN f y = true → y.toNat / 2 ^ (fracBits f - 1) % 2 = 1 → ∃ q, quietNaN f q = y)

/-- FLT_LT and FLT_LE are the ordered comparisons of the values: false with a NaN, both zeros equal, the infinities beyond
every finite value (00_scope.md R21). -/
def Obligations.ComparisonsAreOrdered : Prop :=
  ∀ (f : Fmt) (a b : Flt),
    ((isNaN f a || isNaN f b) = true → fltLt f a b = false ∧ fltLe f a b = false) ∧
    (isFinite f a = true → isFinite f b = true →
      (fltLt f a b = true ↔ signedUnits f a < signedUnits f b) ∧
      (fltLe f a b = true ↔ signedUnits f a ≤ signedUnits f b)) ∧
    (isFinite f a = true → isInf f b = true →
      fltLt f a b = !fltNeg f b ∧ fltLe f a b = !fltNeg f b ∧ fltLt f b a = fltNeg f b ∧ fltLe f b a = fltNeg f b) ∧
    (isInf f a = true → isInf f b = true →
      fltLt f a b = (fltNeg f a && !fltNeg f b) ∧ fltLe f a b = (fltNeg f a || !fltNeg f b))

/-! ### System memory -/

/-- Little-endian bytes: byte A + j of a stored FLT holds v[8j+7 : 8j], reading assembles the value the same way, and every
other byte is unchanged (20_memory.md R143). -/
def Obligations.StoredValueIsLittleEndian : Prop :=
  ∀ (f : Fmt) (m : Memory) (a : Nat) (v : Flt), Memory.wf m = true → Fits f v →
    (∀ j, j < fltBytes f → memGet (writeFlt f m a v) (a + j) = v.extractLsb' (8 * j) 8) ∧
    readFlt f (writeFlt f m a v) a = v ∧
    (∀ b, b < a ∨ a + fltBytes f ≤ b → memGet (writeFlt f m a v) b = memGet m b)

/-! ### FIR -/

/-- FIR PROCESS1: the input enters the history at head, the output is the accumulated convolution from coef[0] with the
newest input on, head moves on; PROG stays 0 (41_fir.md R300, R311). The draws are the model's counter (log 4). -/
def Obligations.FirProcess1FiltersDin : Prop :=
  ∀ (s : State) (fail : Option Nat) (rest : List Turn),
    Ready .firProcess1 s → engineNext .fir s.sched = some (fail, rest) →
    let b := s.fir
    let n := s.cfg.firSize
    exec .firProcess1 s = .next { s with sched := rest, fir := { b with
      hist := b.hist.set b.head b.din
      head := (b.head + 1) % n
      dout := accumulate s.cfg.fmt (nanStream .fir b.draws)
        (fun i => fmul s.cfg.fmt (Config.nanDraw .fir (b.draws + (n + i))) (b.coef.getD i fltZero)
          ((b.hist.set b.head b.din).getD ((b.head + n - i) % n) fltZero)) n
      draws := b.draws + 2 * n
      pend := none, done := true, prog := 0#32, progSeen := 0 } }

/-- FIR PROCESS without bus error: the buffer holds the outputs of the single-sample step over its samples in order, the
history and head are those after the last, PROG is LEN, and no byte outside the buffer changes (41_fir.md R310,
40_common.md R242 to R244). The draws are the model's counter (log 4). -/
def Obligations.FirProcessFiltersBuffer : Prop :=
  ∀ (s : State) (rest : List Turn),
    Memory.wf s.mem = true → Ready .firProcess s → engineNext .fir s.sched = some (none, rest) →
    let f := s.cfg.fmt
    let base := s.fir.addr.toNat
    let len := s.fir.len.toNat
    let r := filterStream (stepFir s.cfg) s.fir (readVector f s.mem base len)
    ∃ m, exec .firProcess s = .next { s with sched := rest, mem := m, fir := { s.fir with
        hist := r.1.hist, head := r.1.head, draws := r.1.draws, prog := s.fir.len,
        pend := none, done := true, progSeen := 0 } } ∧
      readVector f m base len = r.2 ∧
      ∀ a, a < base ∨ base + len * fltBytes f ≤ a → memGet m a = memGet s.mem a

/-- PROCESS with a bus error at element k, on any unit: the elements before k are processed and written, PROG = k, ERRADDR
and BUS_ERROR are recorded if ERR was 0, and no byte outside the elements reached changes. After a failed read a filter's
history is advanced by k samples, after a failed write by k + 1, and the bytes of element k are then left open (41_fir.md
R310, 43_iir.md R410, 44_window.md R470, 40_common.md R243, 60_exceptions.md R501, R503; which access fails is the turn's,
log 6; the draws are the model's counter, logs 4, 5). -/
def Obligations.ProcessStopsAtBusError : Prop :=
  ∀ (i : Instr) (s : State) (rest : List Turn) (k : Nat),
    Memory.wf s.mem = true → Ready i s → k < (s.bank i.unit).len.toNat →
    let b := s.bank i.unit
    let f := s.cfg.fmt
    let base := b.addr.toNat
    let stopped := fun (m : Memory) (b' : Bank) => Host.Outcome.next (φ := Fault) (ρ := Refusal)
      (((s.withSched rest).withMem m).setBank i.unit { b' with
        prog := BitVec.ofNat 32 k, err := some (b.err.getD .busError),
        errAddr := if b.err.isNone then BitVec.ofNat 32 (elemAddr f base k) else b.errAddr,
        pend := none, done := true, progSeen := 0 })
    let readFails := engineNext i.unit s.sched = some (some (2 * k), rest)
    let writeFails := engineNext i.unit s.sched = some (some (2 * k + 1), rest)
    let untouched := fun (m : Memory) (n : Nat) =>
      ∀ a, a < base ∨ elemAddr f base n ≤ a → memGet m a = memGet s.mem a
    (∀ step : Bank → Flt → Bank × Flt,
      (i = .firProcess ∧ step = stepFir s.cfg) ∨ (i = .iirProcess ∧ step = stepIir s.cfg) →
      let after := fun n => filterStream step b (readVector f s.mem base n)
      (readFails → ∃ m, exec i s = stopped m { b with
          hist := (after k).1.hist, head := (after k).1.head, draws := (after k).1.draws } ∧
        readVector f m base k = (after k).2 ∧ untouched m k) ∧
      (writeFails → ∃ m, exec i s = stopped m { b with
          hist := (after (k + 1)).1.hist, head := (after (k + 1)).1.head, draws := (after (k + 1)).1.draws + 1 } ∧
        readVector f m base k = (after k).2 ∧ untouched m (k + 1))) ∧
    (i = .winProcess →
      let windowed := fun m => ∀ j, j < k → readFlt f m (elemAddr f base j) =
        fmul f (Config.nanDraw .win (b.draws + j)) (readFlt f s.mem (elemAddr f base j)) (b.coef.getD j fltZero)
      (readFails → ∃ m, exec i s = stopped m { b with draws := b.draws + k } ∧ windowed m ∧ untouched m k) ∧
      (writeFails → ∃ m, exec i s = stopped m { b with draws := b.draws + (k + 1) + 1 } ∧ windowed m ∧
        untouched m (k + 1)))

/-- After inputs in order, the history entry j places before head holds the input j places before the last, and an entry no
input reached is unchanged (41_fir.md R302). -/
def Obligations.FirHistoryHoldsLastInputs : Prop :=
  ∀ (c : Params) (b : Bank) (xs : List Flt), 1 ≤ c.firSize → b.hist.length = c.firSize → b.head < c.firSize →
    let r := (filterStream (stepFir c) b xs).1
    r.head = (b.head + xs.length) % c.firSize ∧
    ∀ j, j < c.firSize →
      let e := (r.head + 2 * c.firSize - 1 - j) % c.firSize
      (j < xs.length → r.hist.getD e fltZero = xs.getD (xs.length - 1 - j) fltZero) ∧
      (xs.length ≤ j → r.hist.getD e fltZero = b.hist.getD e fltZero)

/-- No FIR output is -0.0 (41_fir.md R304 (c)). -/
def Obligations.FirNeverOutputsNegativeZero : Prop :=
  ∀ (c : Params) (b : Bank) (x : Flt), (stepFir c b x).2 ≠ packFlt c.fmt true 0

/-- Impulse response: with history +0.0, any head and finite coefficients, the outputs are the coefficients bit for bit, but
+0.0 for a zero coefficient and after the last one (41_fir.md R303, R330). -/
def Obligations.FirImpulseResponse : Prop :=
  ∀ (c : Params) (b : Bank) (len : Nat), 1 ≤ c.firSize → b.coef.length = c.firSize → b.head < c.firSize →
    b.hist = List.replicate c.firSize fltZero →
    (∀ x ∈ b.coef, Fits c.fmt x ∧ isFinite c.fmt x = true) →
    let out := (filterStream (stepFir c) b (fltOne c.fmt :: List.replicate len fltZero)).2
    ∀ n, n ≤ len → out.getD n fltZero =
      if n < c.firSize ∧ isZero c.fmt (b.coef.getD n fltZero) = false then b.coef.getD n fltZero else fltZero

/-- The RESET commands: the FIR's zeroes history and head and keeps the coefficients; the IIR's zeroes both histories and
the coefficients; nothing else but the completion changes, DOUT included (41_fir.md R320, 43_iir.md R430). -/
def Obligations.ResetCommandsDiffer : Prop :=
  (∀ (s : State) (fail : Option Nat) (rest : List Turn),
    Ready .firReset s → engineNext .fir s.sched = some (fail, rest) →
    exec .firReset s = .next { s with sched := rest, fir := { s.fir with
      hist := List.replicate s.cfg.firSize fltZero, head := 0,
      pend := none, done := true, prog := 0#32, progSeen := 0 } }) ∧
  (∀ (s : State) (fail : Option Nat) (rest : List Turn),
    Ready .iirReset s → engineNext .iir s.sched = some (fail, rest) →
    exec .iirReset s = .next { s with sched := rest, iir := { s.iir with
      hist := List.replicate (s.cfg.numB + s.cfg.numA) fltZero,
      coef := List.replicate (s.cfg.numB + s.cfg.numA) fltZero,
      pend := none, done := true, prog := 0#32, progSeen := 0 } })

/-! ### Coefficient transfer -/

/-- SET_FACTORS of a unit: without a bus error among its NC(u) reads, the whole vector and PROG = NC(u); with the read of
entry i failing, no coefficient changes, PROG = i and the error is recorded (40_common.md R260). -/
def Obligations.SetFactorsLoadsAllOrNothing : Prop :=
  ∀ (i : Instr), (i = .firSetFactors ∨ i = .iirSetFactors ∨ i = .winSetFactors) →
  ∀ (s : State) (fail : Option Nat) (rest : List Turn),
    Ready i s → engineNext i.unit s.sched = some (fail, rest) →
    let b := s.bank i.unit
    let n := s.cfg.nc i.unit
    ((∀ k, fail = some k → n ≤ k) →
      exec i s = .next ((s.withSched rest).setBank i.unit { b with
        coef := readVector s.cfg.fmt s.mem b.addr.toNat n, prog := BitVec.ofNat 32 n,
        pend := none, done := true, progSeen := 0 })) ∧
    (∀ k, fail = some k → k < n →
      exec i s = .next ((s.withSched rest).setBank i.unit { b with
        prog := BitVec.ofNat 32 k, err := some (b.err.getD .busError),
        errAddr := if b.err.isNone then BitVec.ofNat 32 (elemAddr s.cfg.fmt b.addr.toNat k) else b.errAddr,
        pend := none, done := true, progSeen := 0 }))

/-- GET_FACTORS of a unit: without a bus error among its NC(u) writes, memory at ADDR holds the coefficients bit for bit and
PROG = NC(u); with the write of entry k failing, the entries before k are written, PROG = k and the error is recorded.
Nothing else in the unit or outside the entries reached changes (40_common.md R261, 60_exceptions.md R501, R503; the draw
that the failed write takes is the model's, log 5). -/
def Obligations.GetFactorsStoresTheVector : Prop :=
  ∀ (i : Instr), (i = .firGetFactors ∨ i = .iirGetFactors ∨ i = .winGetFactors) →
  ∀ (s : State) (fail : Option Nat) (rest : List Turn),
    Inv s → Ready i s → engineNext i.unit s.sched = some (fail, rest) →
    let b := s.bank i.unit
    let n := s.cfg.nc i.unit
    let f := s.cfg.fmt
    let base := b.addr.toNat
    ((∀ k, fail = some k → n ≤ k) →
      ∃ m, exec i s = .next (((s.withSched rest).withMem m).setBank i.unit { b with
          prog := BitVec.ofNat 32 n, pend := none, done := true, progSeen := 0 }) ∧
        readVector f m base n = b.coef ∧
        ∀ a, a < base ∨ elemAddr f base n ≤ a → memGet m a = memGet s.mem a) ∧
    (∀ k, fail = some k → k < n →
      ∃ m, exec i s = .next (((s.withSched rest).withMem m).setBank i.unit { b with
          prog := BitVec.ofNat 32 k, err := some (b.err.getD .busError),
          errAddr := if b.err.isNone then BitVec.ofNat 32 (elemAddr f base k) else b.errAddr,
          draws := b.draws + 1, pend := none, done := true, progSeen := 0 }) ∧
        readVector f m base k = b.coef.take k ∧
        ∀ a, a < base ∨ elemAddr f base (k + 1) ≤ a → memGet m a = memGet s.mem a)

/-! ### FIR design -/

/-- The sinc taps, 2f at the centre and the sine quotient elsewhere, and the normalization by the accumulated sum
(42_fir_design.md R351, R353, R354); with them the three design commands write FIR.coef with their result and change no
history, head or memory, and PROG stays 0 (R350, R360, R370, R380). The draws are the model's counter (log 4). -/
def Obligations.DesignCommandsWriteOnlyCoefficients : Prop :=
  (∀ (f : Fmt) (q : Nat → BitVec 64) (size : Nat) (x : Flt),
    let centre := (size - 1) / 2
    (sincTaps f q size x).length = size ∧
    ∀ n, n < size → (sincTaps f q size x).getD n fltZero =
      if n = centre then fmul f (q (5 * n)) (fltTwo f) x
      else
        let k := itof f ((n : Int) - (centre : Int))
        fdiv f (q (5 * n + 4))
          (fsin f (fmul f (q (5 * n + 2)) (fmul f (q (5 * n + 1)) (fmul f (q (5 * n)) (fltTwo f) (fltPi f)) x) k))
          (fmul f (q (5 * n + 3)) (fltPi f) k)) ∧
  (∀ (f : Fmt) (q : Nat → BitVec 64) (h : List Flt),
    (normalizeTaps f q h).length = h.length ∧
    ∀ n, n < h.length → (normalizeTaps f q h).getD n fltZero =
      fdiv f (q (h.length + n)) (h.getD n fltZero) (accumulate f q (fun j => h.getD j fltZero) h.length)) ∧
  ∀ (s : State) (fail : Option Nat) (rest : List Turn), engineNext .fir s.sched = some (fail, rest) →
    let b := s.fir
    let f := s.cfg.fmt
    let n := s.cfg.firSize
    let q := nanStream .fir b.draws
    (Ready .firDesignLowpass s → exec .firDesignLowpass s = .next { s with sched := rest, fir := { b with
      coef := normalizeTaps f (fun j => q (5 * n + j)) (sincTaps f q n b.freqA), draws := b.draws + 7 * n,
      pend := none, done := true, prog := 0#32, progSeen := 0 } }) ∧
    (Ready .firDesignHighpass s → exec .firDesignHighpass s = .next { s with sched := rest, fir := { b with
      coef := ((lowpass f q n b.freqA).map (fneg f)).set (centreTap n)
        (fadd f (q (7 * n)) (((lowpass f q n b.freqA).map (fneg f)).getD (centreTap n) fltZero) (fltOne f)),
      draws := b.draws + (7 * n + 1), pend := none, done := true, prog := 0#32, progSeen := 0 } }) ∧
    (Ready .firDesignBandpass s → exec .firDesignBandpass s = .next { s with sched := rest, fir := { b with
      coef := (List.range n).map (fun k => fsub f (q (14 * n + k)) ((lowpass f q n b.freqB).getD k fltZero)
        ((lowpass f (fun j => q (7 * n + j)) n b.freqA).getD k fltZero)),
      draws := b.draws + 15 * n, pend := none, done := true, prog := 0#32, progSeen := 0 } })

/-- Doubling a valid cutoff is exact, the centre tap is that double, and one tap is designed as ONE whatever SIN is
(42_fir_design.md R356). -/
def Obligations.LowpassOfOneTapIsOne : Prop :=
  ∀ (f : Fmt) (q : Nat → BitVec 64) (x : Flt), Fits f x → freqValid f x = true →
    (∀ q0, isFinite f (fmul f q0 (fltTwo f) x) = true ∧
      signedUnits f (fmul f q0 (fltTwo f) x) = 2 * signedUnits f x) ∧
    (∀ size, 1 ≤ size → ∃ q0, (sincTaps f q size x).getD (centreTap size) fltZero = fmul f q0 (fltTwo f) x) ∧
    lowpass f q 1 x = [fltOne f]

/-- A cutoff is valid by its two comparisons, which hold exactly when it is a finite value strictly between 0 and one half,
that is 2^(q-1) quanta; so not for zeros, infinities or NaNs (42_fir_design.md R352). -/
def Obligations.FreqValidIsTheOpenInterval : Prop :=
  ∀ (f : Fmt) (x : Flt),
    freqValid f x = (fltLt f fltZero x && fltLt f x (fltHalf f)) ∧
    (freqValid f x = true ↔
      isFinite f x = true ∧ 0 < signedUnits f x ∧ signedUnits f x < (2 : Int) ^ (quantumExp f - 1)) ∧
    (isZero f x = true ∨ isInf f x = true ∨ isNaN f x = true ∨ x = fltHalf f → freqValid f x = false)

/-- The band-pass checks in their order: order, which a NaN and equal cutoffs fail, then the range of freqHigh, then that of
freqLow; the first failing one is raised and nothing but STATUS changes (42_fir_design.md R381). -/
def Obligations.BandpassValidationOrder : Prop :=
  ∀ (s : State), s.fir.busy = false → s.cfg.hasDesign = true →
    let f := s.cfg.fmt
    let rejected := fun e : ErrCode =>
      Host.Outcome.next (φ := Fault) (ρ := Refusal)
        { s with fir := { s.fir with done := true, err := some (s.fir.err.getD e) } }
    (fltLt f s.fir.freqA s.fir.freqB = false → exec .firDesignBandpass s = rejected .freqOrder) ∧
    ((isNaN f s.fir.freqA || isNaN f s.fir.freqB) = true → exec .firDesignBandpass s = rejected .freqOrder) ∧
    (s.fir.freqA = s.fir.freqB → exec .firDesignBandpass s = rejected .freqOrder) ∧
    (fltLt f s.fir.freqA s.fir.freqB = true → freqValid f s.fir.freqB = false →
      exec .firDesignBandpass s = rejected .freqRange) ∧
    (fltLt f s.fir.freqA s.fir.freqB = true → freqValid f s.fir.freqB = true → freqValid f s.fir.freqA = false →
      exec .firDesignBandpass s = rejected .freqRange) ∧
    (fltLt f s.fir.freqA s.fir.freqB = true → freqValid f s.fir.freqB = true → freqValid f s.fir.freqA = true →
      checkOf .firDesignBandpass s.cfg (s.latched .firDesignBandpass) = none)

/-- Away from the centre a high-pass tap is its low-pass tap negated, a finite value and its negation add up to +0.0 exactly,
and the centre tap is the negated one plus ONE (42_fir_design.md R370, R391). -/
def Obligations.HighpassComplementsLowpass : Prop :=
  ∀ (f : Fmt) (q : Nat → BitVec 64) (size : Nat) (x : Flt),
    (highpass f q size x).length = size ∧
    (∀ n, n < size → n ≠ centreTap size →
      (highpass f q size x).getD n fltZero = fneg f ((lowpass f q size x).getD n fltZero)) ∧
    (∀ (q' : BitVec 64) (v : Flt), isFinite f v = true → fadd f q' v (fneg f v) = fltZero) ∧
    (1 ≤ size → (highpass f q size x).getD (centreTap size) fltZero =
      fadd f (q (7 * size)) (fneg f ((lowpass f q size x).getD (centreTap size) fltZero)) (fltOne f))

/-! ### IIR -/

/-- IIR PROCESS1: the input history shifted with the input in front, the difference of the two accumulated sums, the
output history shifted with the output in front (43_iir.md R400, R411). The draws are the model's counter (log 4). -/
def Obligations.IirProcess1StepsTheDifferenceEquation : Prop :=
  ∀ (s : State) (fail : Option Nat) (rest : List Turn),
    Ready .iirProcess1 s → engineNext .iir s.sched = some (fail, rest) →
    let b := s.iir
    let f := s.cfg.fmt
    let nb := s.cfg.numB
    let na := s.cfg.numA
    let q := nanStream .iir b.draws
    let xin := (b.din :: b.hist.take nb).take nb
    let yout := b.hist.drop nb
    let ff := accumulate f q
      (fun i => fmul f (q (nb + i)) ((b.coef.take nb).getD i fltZero) (xin.getD i fltZero)) nb
    let fb := accumulate f (fun j => q (2 * nb + j))
      (fun j => fmul f (q (2 * nb + (na + j))) ((b.coef.drop nb).getD j fltZero) (yout.getD j fltZero)) na
    let y := fsub f (q (2 * nb + 2 * na)) ff fb
    exec .iirProcess1 s = .next { s with sched := rest, iir := { b with
      hist := xin ++ (y :: yout).take na, dout := y, draws := b.draws + (2 * nb + 2 * na + 1),
      pend := none, done := true, prog := 0#32, progSeen := 0 } }

/-- IIR PROCESS without bus error: as for the FIR, with the IIR's single-sample step (43_iir.md R410, 40_common.md R242 to
R244). The draws are the model's counter (log 4). -/
def Obligations.IirProcessFiltersBuffer : Prop :=
  ∀ (s : State) (rest : List Turn),
    Memory.wf s.mem = true → Ready .iirProcess s → engineNext .iir s.sched = some (none, rest) →
    let f := s.cfg.fmt
    let base := s.iir.addr.toNat
    let len := s.iir.len.toNat
    let r := filterStream (stepIir s.cfg) s.iir (readVector f s.mem base len)
    ∃ m, exec .iirProcess s = .next { s with sched := rest, mem := m, iir := { s.iir with
        hist := r.1.hist, draws := r.1.draws, prog := s.iir.len,
        pend := none, done := true, progSeen := 0 } } ∧
      readVector f m base len = r.2 ∧
      ∀ a, a < base ∨ base + len * fltBytes f ≤ a → memGet m a = memGet s.mem a

/-- SET_COEFFS: b then a in one step with PROG = NUMB + NUMA; on a bus error no coefficient changes, and PROG and ERRADDR
name the failing entry (43_iir.md R420). -/
def Obligations.SetCoeffsLoadsBothOrNothing : Prop :=
  ∀ (s : State) (fail : Option Nat) (rest : List Turn),
    Ready .iirSetCoeffs s → engineNext .iir s.sched = some (fail, rest) →
    let b := s.iir
    let f := s.cfg.fmt
    let nb := s.cfg.numB
    let na := s.cfg.numA
    ((∀ k, fail = some k → nb + na ≤ k) →
      exec .iirSetCoeffs s = .next { s with sched := rest, iir := { b with
        coef := readVector f s.mem b.addr.toNat nb ++ readVector f s.mem b.addr2.toNat na,
        prog := BitVec.ofNat 32 (nb + na), pend := none, done := true, progSeen := 0 } }) ∧
    (∀ k, fail = some k → k < nb + na →
      exec .iirSetCoeffs s = .next { s with sched := rest, iir := { b with
        prog := BitVec.ofNat 32 k, err := some (b.err.getD .busError),
        errAddr := if b.err.isNone then BitVec.ofNat 32
          (if k < nb then elemAddr f b.addr.toNat k else elemAddr f b.addr2.toNat (k - nb)) else b.errAddr,
        pend := none, done := true, progSeen := 0 } })

/-- SET_COEFFS validation: every check of b before any of a; with NUMA = 0 an empty a is required and ADDR2 is not examined
(43_iir.md R421). -/
def Obligations.SetCoeffsValidationOrder : Prop :=
  ∀ (c : Params) (p : Pend),
    (∀ e, checkBuffer c.fmt p.addr.toNat p.len.toNat (some c.numB) = some e →
      checkOf .iirSetCoeffs c p = some e) ∧
    (checkBuffer c.fmt p.addr.toNat p.len.toNat (some c.numB) = none → 0 < c.numA →
      checkOf .iirSetCoeffs c p = checkBuffer c.fmt p.addr2.toNat p.len2.toNat (some c.numA)) ∧
    (checkBuffer c.fmt p.addr.toNat p.len.toNat (some c.numB) = none → c.numA = 0 →
      checkOf .iirSetCoeffs c p = if p.len2 = 0#32 then none else some .lenMismatch)

/-- With all coefficients +0.0, a finite input and finite history give the output +0.0, and the history stays finite, so the
same holds of the next finite input (43_iir.md R431, R432). -/
def Obligations.ZeroCoefficientsGiveZero : Prop :=
  ∀ (c : Params) (b : Bank) (x : Flt), (∀ y ∈ b.coef, y = fltZero) → isFinite c.fmt x = true →
    (∀ y ∈ b.hist, isFinite c.fmt y = true) →
    (stepIir c b x).2 = fltZero ∧ (stepIir c b x).1.coef = b.coef ∧
    ∀ y ∈ (stepIir c b x).1.hist, isFinite c.fmt y = true

/-- With feedback, once the newest output in the history is a NaN every later output is a NaN, whatever the inputs and the
coefficients (43_iir.md R404 (b)). -/
def Obligations.NaNOutputIsLatched : Prop :=
  ∀ (c : Params) (b : Bank) (xs : List Flt), 1 ≤ c.numB → 1 ≤ c.numA → b.hist.length = c.numB + c.numA →
    isNaN c.fmt (b.hist.getD c.numB fltZero) = true →
    ∀ y ∈ (filterStream (stepIir c) b xs).2, isNaN c.fmt y = true

/-! ### WIN -/

/-- WIN PROCESS without bus error: each element times the coefficient at its position, PROG = N, coefficients and every
other byte unchanged (44_window.md R470). The draws are the model's counter (log 4). -/
def Obligations.WindowProcessMultiplies : Prop :=
  ∀ (s : State) (rest : List Turn),
    Memory.wf s.mem = true → Ready .winProcess s → engineNext .win s.sched = some (none, rest) →
    let b := s.win
    let f := s.cfg.fmt
    let base := b.addr.toNat
    let n := s.cfg.winSize
    ∃ m, exec .winProcess s = .next { s with sched := rest, mem := m, win := { b with
        draws := b.draws + n, prog := BitVec.ofNat 32 n, pend := none, done := true, progSeen := 0 } } ∧
      (∀ k, k < n → readFlt f m (elemAddr f base k) =
        fmul f (Config.nanDraw .win (b.draws + k)) (readFlt f s.mem (elemAddr f base k)) (b.coef.getD k fltZero)) ∧
      ∀ a, a < base ∨ base + n * fltBytes f ≤ a → memGet m a = memGet s.mem a

/-- With every coefficient ONE, PROCESS leaves every byte of memory unchanged when no sample is a NaN (44_window.md R471). -/
def Obligations.RectangularWindowIsIdentity : Prop :=
  ∀ (s : State) (rest : List Turn),
    Memory.wf s.mem = true → Ready .winProcess s → engineNext .win s.sched = some (none, rest) →
    s.win.coef = List.replicate s.cfg.winSize (fltOne s.cfg.fmt) →
    (∀ k, k < s.cfg.winSize →
      isNaN s.cfg.fmt (readFlt s.cfg.fmt s.mem (elemAddr s.cfg.fmt s.win.addr.toNat k)) = false) →
    ∃ t, exec .winProcess s = .next t ∧ ∀ a, memGet t.mem a = memGet s.mem a

/-- The four setups: ONE everywhere at any size; the cosine tables, or nothing when N ≤ 1. Only the coefficients and the
completion change (44_window.md R460 to R463). -/
def Obligations.WindowSetupsLoadTheirTables : Prop :=
  ∀ (s : State) (fail : Option Nat) (rest : List Turn), engineNext .win s.sched = some (fail, rest) →
    let f := s.cfg.fmt
    let n := s.cfg.winSize
    let loaded := fun v : List Flt => Host.Outcome.next (φ := Fault) (ρ := Refusal)
      { s with sched := rest, win := { s.win with
        coef := v, pend := none, done := true, prog := 0#32, progSeen := 0 } }
    let table := fun t : Table =>
      if n ≤ 1 then s.win.coef else (List.range n).map (fun k => romEntry t f n k)
    (Ready .winSetupRect s → exec .winSetupRect s = loaded (List.replicate n (fltOne f))) ∧
    (Ready .winSetupHamming s → exec .winSetupHamming s = loaded (table .hamming)) ∧
    (Ready .winSetupHann s → exec .winSetupHann s = loaded (table .hann)) ∧
    (Ready .winSetupBlackman s → exec .winSetupBlackman s = loaded (table .blackman))

/-- The ROM's symmetry, end points, centre and upper bound (44_window.md R452 (a) to (d)). -/
def Obligations.RomTablesAreSymmetric : Prop :=
  ∀ (f : Fmt) (size : Nat), 2 ≤ size →
    (∀ (t : Table) (n : Nat), n < size → romEntry t f size n = romEntry t f size (size - 1 - n)) ∧
    romEntry .hamming f size 0 = (match f with | .b32 => 0x3DA3D70A#64 | .b64 => 0x3FB47AE147AE147B#64) ∧
    romEntry .hann f size 0 = fltZero ∧ romEntry .blackman f size 0 = fltZero ∧
    (∀ (t : Table), size % 2 = 1 → romEntry t f size ((size - 1) / 2) = fltOne f) ∧
    (∀ (t : Table) (n : Nat), n < size → fltNeg f (romEntry t f size n) = false ∧
      fltMag f (romEntry t f size n) ≤ fltMag f (fltOne f))

/-- Before its one rounding, every ROM entry lies within 2^(-60) of the source's real formula (44_window.md R451; the bound
is the model's, log 14). -/
def Obligations.RomTablesApproximateTheFormulas : Prop :=
  ∀ (size n : Nat), 2 ≤ size → n < size →
    let θ : ℝ := 2 * Real.pi * n / (size - 1 : ℕ)
    let value := fun t : Table => (tableValue t size n : ℝ) / (100 * (fixOne : ℝ))
    |value .hamming - (0.54 - 0.46 * Real.cos θ)| ≤ 1 / 2 ^ 60 ∧
    |value .hann - 0.5 * (1 - Real.cos θ)| ≤ 1 / 2 ^ 60 ∧
    |value .blackman - (0.42 - 0.5 * Real.cos θ + 0.08 * Real.cos (2 * θ))| ≤ 1 / 2 ^ 60

/-- WIN PROCESS with LEN ≠ N and a non-null ADDR fails with ZERO_LEN or LEN_MISMATCH and changes only STATUS
(44_window.md R472). -/
def Obligations.WindowLengthIsEnforced : Prop :=
  ∀ (s : State), s.win.busy = false → s.win.addr ≠ 0#32 → s.win.len.toNat ≠ s.cfg.winSize →
    exec .winProcess s = .next { s with win := { s.win with done := true, err := some (s.win.err.getD
      (if s.win.len = 0#32 then .zeroLen else .lenMismatch)) } }

/-! ### Validation and registers -/

/-- The buffer check in its order, with exact integer arithmetic (40_common.md R240), and the validation of each command over
the registers it would latch: the buffer check with its required count, the cutoffs' checks, or none (R241, with
42_fir_design.md R352, R381 and 43_iir.md R421). -/
def Obligations.ValidationFollowsTheTable : Prop :=
  (∀ (f : Fmt) (addr len : Nat) (req : Option Nat),
    (addr = 0 → checkBuffer f addr len req = some .nullAddr) ∧
    (addr ≠ 0 → len = 0 → checkBuffer f addr len req = some .zeroLen) ∧
    (addr ≠ 0 → len ≠ 0 → (∃ n, req = some n ∧ len ≠ n) → checkBuffer f addr len req = some .lenMismatch) ∧
    (addr ≠ 0 → len ≠ 0 → (∀ n, req = some n → len = n) → ¬ fltBytes f ∣ addr →
      checkBuffer f addr len req = some .misaligned) ∧
    (addr ≠ 0 → len ≠ 0 → (∀ n, req = some n → len = n) → fltBytes f ∣ addr → 2 ^ 32 < addr + len * fltBytes f →
      checkBuffer f addr len req = some .addrRange) ∧
    (addr ≠ 0 → len ≠ 0 → (∀ n, req = some n → len = n) → fltBytes f ∣ addr → addr + len * fltBytes f ≤ 2 ^ 32 →
      checkBuffer f addr len req = none)) ∧
  ∀ (i : Instr) (s : State),
    let b := s.bank i.unit
    let f := s.cfg.fmt
    let buffer := checkBuffer f b.addr.toNat b.len.toNat
    let check := checkOf i s.cfg (s.latched i)
    (i = .firProcess ∨ i = .iirProcess → check = buffer none) ∧
    (i = .winProcess → check = buffer (some s.cfg.winSize)) ∧
    (i ∈ [Instr.firProcess1, .firReset, .iirProcess1, .iirReset, .winSetupRect, .winSetupHamming, .winSetupHann,
      .winSetupBlackman] → check = none) ∧
    (i ∈ [Instr.firSetFactors, .iirSetFactors, .winSetFactors, .firGetFactors, .iirGetFactors, .winGetFactors] →
      check = buffer (some (s.cfg.nc i.unit))) ∧
    (i = .iirSetCoeffs → check = match buffer (some s.cfg.numB) with
      | some e => some e
      | none =>
        if 0 < s.cfg.numA then checkBuffer f b.addr2.toNat b.len2.toNat (some s.cfg.numA)
        else if b.len2 = 0#32 then none else some .lenMismatch) ∧
    (i = .firDesignLowpass ∨ i = .firDesignHighpass →
      check = if freqValid f b.freqA then none else some .freqRange) ∧
    (i = .firDesignBandpass → check =
      if fltLt f b.freqA b.freqB = false then some .freqOrder
      else if freqValid f b.freqB && freqValid f b.freqA then none else some .freqRange)

/-- Access classes, busy or idle. Writes: each RW register stores the word and nothing else changes, CTRL only its bits 0 and
1; FREQ_A, FREQ_B and DIN store by their LO word with FW = 32, by their HI word over the staged LO word with FW = 64. Reads:
each plain register and CTRL show what is stored, with no effect, so a register reads back what was written. A write to a
read-only or reserved word changes nothing; reserved words, reserved bits and CMD read 0; HEAD is RAZ/WI outside the FIR
(10_state.md R61 to R66, R73, R77 to R88). -/
def Obligations.RegisterAccessClasses : Prop :=
  ∀ (s : State) (u : UnitId) (w : Word),
    let b := s.bank u
    let write := fun r => writeReg s.cfg u r w b
    (write .addr = { b with addr := w } ∧ write .addr2 = { b with addr2 := w } ∧ write .len = { b with len := w } ∧
      write .len2 = { b with len2 := w } ∧ write .cidx = { b with cidx := w } ∧ write .hidx = { b with hidx := w } ∧
      write .ctrl = { b with doneIe := w.getLsbD 0, errIe := w.getLsbD 1 }) ∧
    (s.cfg.fmt = .b32 → write (.lo .freqA) = { b with freqA := w.setWidth 64 } ∧
      write (.lo .freqB) = { b with freqB := w.setWidth 64 } ∧ write (.lo .din) = { b with din := w.setWidth 64 } ∧
      write (.hi .freqA) = b ∧ write (.hi .freqB) = b ∧ write (.hi .din) = b) ∧
    (s.cfg.fmt = .b64 → write (.lo .freqA) = { b with stFreqA := w } ∧ write (.lo .freqB) = { b with stFreqB := w } ∧
      write (.lo .din) = { b with stDin := w } ∧ write (.hi .freqA) = { b with freqA := w ++ b.stFreqA } ∧
      write (.hi .freqB) = { b with freqB := w ++ b.stFreqB } ∧ write (.hi .din) = { b with din := w ++ b.stDin }) ∧
    (readReg s u .addr = (b.addr, s) ∧ readReg s u .addr2 = (b.addr2, s) ∧ readReg s u .len = (b.len, s) ∧
      readReg s u .len2 = (b.len2, s) ∧ readReg s u .cidx = (b.cidx, s) ∧ readReg s u .hidx = (b.hidx, s) ∧
      readReg s u .errAddr = (b.errAddr, s) ∧ readReg s u .status = (statusWord b, s) ∧
      (b.busy = false → readReg s u .prog = (b.prog, s))) ∧
    (readReg s u .ctrl = (ctrlWord b, s) ∧ (ctrlWord b).getLsbD 0 = b.doneIe ∧ (ctrlWord b).getLsbD 1 = b.errIe ∧
      (ctrlWord b).extractLsb' 2 30 = 0#30) ∧
    (∀ r, r = Reg.addr ∨ r = .addr2 ∨ r = .len ∨ r = .len2 ∨ r = .cidx ∨ r = .hidx →
      readReg (s.setBank u (write r)) u r = (w, s.setBank u (write r))) ∧
    (∀ r, r = Reg.id ∨ r = .size0 ∨ r = .size1 ∨ r = .prog ∨ r = .errAddr ∨ r = .lo .dout ∨ r = .hi .dout →
      write r = b) ∧
    (u ≠ .fir → write .head = b ∧ readReg s u .head = (0#32, s)) ∧
    (∀ off, off < 0x400 → off % 4 = 0 → (0x300 ≤ off ∨ off % 0x100 = 0x3C ∨ 0x70 ≤ off % 0x100) →
      writeBlock off w s = .next s ∧ readBlock off s = (0#32, s)) ∧
    readReg s u .cmd = (0#32, s)

/-- State access through CDATA, HDATA and HEAD: BUSY first, then INDEX_OOB, then the access; a refused read returns 0, a
refused write changes only STATUS, a write stores verbatim (40_common.md R250 to R254, R256). With FW = 32 the LO word is
the whole value; with FW = 64 each word read makes its checks on its own, and the HI write commits (10_state.md R64 to R66).
An idle HEAD reads the FIR's head (R84). -/
def Obligations.StateAccessFollowsItsChecks : Prop :=
  ∀ (s : State) (u : UnitId) (w : Word),
    let b := s.bank u
    let recorded := fun e : ErrCode => s.setBank u { b with err := some (b.err.getD e) }
    let stored := fun r => s.setBank u (writeReg s.cfg u r w b)
    let coef := b.coef.getD b.cidx.toNat fltZero
    let hist := b.hist.getD b.hidx.toNat fltZero
    (b.busy = true →
      readReg s u (.lo .cdata) = (0#32, recorded .busy) ∧ readReg s u (.lo .hdata) = (0#32, recorded .busy) ∧
      (s.cfg.fmt = .b32 → stored (.lo .cdata) = recorded .busy ∧ stored (.lo .hdata) = recorded .busy) ∧
      (s.cfg.fmt = .b64 →
        readReg s u (.hi .cdata) = (0#32, recorded .busy) ∧ readReg s u (.hi .hdata) = (0#32, recorded .busy) ∧
        stored (.hi .cdata) = recorded .busy ∧ stored (.hi .hdata) = recorded .busy) ∧
      (u = .fir → stored .head = recorded .busy)) ∧
    (b.busy = false → s.cfg.nc u ≤ b.cidx.toNat →
      readReg s u (.lo .cdata) = (0#32, recorded .indexOob) ∧
      (s.cfg.fmt = .b32 → stored (.lo .cdata) = recorded .indexOob) ∧
      (s.cfg.fmt = .b64 → readReg s u (.hi .cdata) = (0#32, recorded .indexOob) ∧
        stored (.hi .cdata) = recorded .indexOob)) ∧
    (b.busy = false → b.cidx.toNat < s.cfg.nc u →
      readReg s u (.lo .cdata) = (coef.setWidth 32, s) ∧
      (s.cfg.fmt = .b32 →
        stored (.lo .cdata) = s.setBank u { b with coef := b.coef.set b.cidx.toNat (w.setWidth 64) }) ∧
      (s.cfg.fmt = .b64 → readReg s u (.hi .cdata) = (coef.extractLsb' 32 32, s) ∧
        stored (.hi .cdata) = s.setBank u { b with coef := b.coef.set b.cidx.toNat (w ++ b.stCdata) })) ∧
    (b.busy = false → s.cfg.nh u ≤ b.hidx.toNat →
      readReg s u (.lo .hdata) = (0#32, recorded .indexOob) ∧
      (s.cfg.fmt = .b32 → stored (.lo .hdata) = recorded .indexOob) ∧
      (s.cfg.fmt = .b64 → readReg s u (.hi .hdata) = (0#32, recorded .indexOob) ∧
        stored (.hi .hdata) = recorded .indexOob)) ∧
    (b.busy = false → b.hidx.toNat < s.cfg.nh u →
      readReg s u (.lo .hdata) = (hist.setWidth 32, s) ∧
      (s.cfg.fmt = .b32 →
        stored (.lo .hdata) = s.setBank u { b with hist := b.hist.set b.hidx.toNat (w.setWidth 64) }) ∧
      (s.cfg.fmt = .b64 → readReg s u (.hi .hdata) = (hist.extractLsb' 32 32, s) ∧
        stored (.hi .hdata) = s.setBank u { b with hist := b.hist.set b.hidx.toNat (w ++ b.stHdata) })) ∧
    (u = .fir → b.busy = false →
      readReg s u .head = (BitVec.ofNat 32 b.head, s) ∧
      (s.cfg.firSize ≤ w.toNat → stored .head = recorded .indexOob) ∧
      (w.toNat < s.cfg.firSize → stored .head = s.setBank u { b with head := w.toNat }))

/-- FLT registers. With FW = 64 a LO write sets the latch and nothing else, busy or not, and a HI write commits the word pair
with the commit action of its register, the latch kept, which is 0 after reset; with FW = 32 the LO write commits the whole
value and the HI word is RAZ/WI (10_state.md R64, R66; 40_common.md R252, R254). A read of FREQ_A, FREQ_B, DIN, of an idle
DOUT, and of CDATA and HDATA idle with the index in range returns bits 31:0 by the LO word, with no effect; with FW = 64 the
HI word returns bits 63:32 (R65; the HI words of CDATA and HDATA are in StateAccessFollowsItsChecks). -/
def Obligations.FltRegistersFollowTheirFormat : Prop :=
  ∀ (s : State) (u : UnitId) (w : Word),
    let b := s.bank u
    let write := fun r => writeReg s.cfg u r w b
    let failed := fun e : ErrCode => { b with err := some (b.err.getD e) }
    let commit := fun (r : FltReg) (v : Flt) =>
      match r with
      | .freqA => { b with freqA := v }
      | .freqB => { b with freqB := v }
      | .din => { b with din := v }
      | .dout => b
      | .cdata => if b.busy then failed .busy else if s.cfg.nc u ≤ b.cidx.toNat then failed .indexOob
        else { b with coef := b.coef.set b.cidx.toNat v }
      | .hdata => if b.busy then failed .busy else if s.cfg.nh u ≤ b.hidx.toNat then failed .indexOob
        else { b with hist := b.hist.set b.hidx.toNat v }
    (s.cfg.fmt = .b64 →
      (write (.lo .freqA) = { b with stFreqA := w } ∧ write (.lo .freqB) = { b with stFreqB := w } ∧
        write (.lo .din) = { b with stDin := w } ∧ write (.lo .cdata) = { b with stCdata := w } ∧
        write (.lo .hdata) = { b with stHdata := w } ∧ write (.lo .dout) = b) ∧
      (write (.hi .freqA) = commit .freqA (w ++ b.stFreqA) ∧ write (.hi .freqB) = commit .freqB (w ++ b.stFreqB) ∧
        write (.hi .din) = commit .din (w ++ b.stDin) ∧ write (.hi .cdata) = commit .cdata (w ++ b.stCdata) ∧
        write (.hi .hdata) = commit .hdata (w ++ b.stHdata) ∧ write (.hi .dout) = b)) ∧
    (s.cfg.fmt = .b32 → ∀ r, write (.lo r) = commit r (w.setWidth 64) ∧ write (.hi r) = b ∧
      readReg s u (.hi r) = (0#32, s)) ∧
    (let r := (blockReset s).bank u
     r.stFreqA = 0#32 ∧ r.stFreqB = 0#32 ∧ r.stDin = 0#32 ∧ r.stCdata = 0#32 ∧ r.stHdata = 0#32) ∧
    (readReg s u (.lo .freqA) = (b.freqA.setWidth 32, s) ∧ readReg s u (.lo .freqB) = (b.freqB.setWidth 32, s) ∧
      readReg s u (.lo .din) = (b.din.setWidth 32, s) ∧
      (b.busy = false → readReg s u (.lo .dout) = (b.dout.setWidth 32, s) ∧
        (b.cidx.toNat < s.cfg.nc u →
          readReg s u (.lo .cdata) = ((b.coef.getD b.cidx.toNat fltZero).setWidth 32, s)) ∧
        (b.hidx.toNat < s.cfg.nh u →
          readReg s u (.lo .hdata) = ((b.hist.getD b.hidx.toNat fltZero).setWidth 32, s)))) ∧
    (s.cfg.fmt = .b64 →
      readReg s u (.hi .freqA) = (b.freqA.extractLsb' 32 32, s) ∧
      readReg s u (.hi .freqB) = (b.freqB.extractLsb' 32 32, s) ∧
      readReg s u (.hi .din) = (b.din.extractLsb' 32 32, s) ∧
      (b.busy = false → readReg s u (.hi .dout) = (b.dout.extractLsb' 32 32, s)))

/-- STATUS: the fields read, ERRCODE by the eleven codes and 0 when ERR = 0 (30_encoding.md R190), and a write clears DONE by
bit 1 and ERR, ERRCODE and ERRADDR by bit 2, every other bit ignored, busy or idle, and changes nothing else (10_state.md R74,
R75). -/
def Obligations.StatusReadsAndClears : Prop :=
  ∀ (c : Params) (u : UnitId) (b : Bank) (w : Word),
    ((statusWord b).getLsbD 0 = b.busy ∧ (statusWord b).getLsbD 1 = b.done ∧
      (statusWord b).getLsbD 2 = b.err.isSome ∧
      (statusWord b).extractLsb' 3 5 = 0#5 ∧ ((statusWord b).extractLsb' 8 8).toNat = (match b.err with
        | none => 0x00
        | some .nullAddr => 0x11
        | some .zeroLen => 0x12
        | some .lenMismatch => 0x13
        | some .freqRange => 0x14
        | some .freqOrder => 0x15
        | some .misaligned => 0x16
        | some .addrRange => 0x17
        | some .indexOob => 0x21
        | some .illegalCmd => 0x31
        | some .busy => 0x32
        | some .busError => 0x33) ∧
      (statusWord b).extractLsb' 16 16 = 0#16) ∧
    writeReg c u .status w b = { b with
      done := b.done && !w.getLsbD 1,
      err := if w.getLsbD 2 then none else b.err,
      errAddr := if w.getLsbD 2 then 0#32 else b.errAddr }

/-- The interrupt is asserted exactly while some unit has DONE with DONE_IE or ERR with ERR_IE, and deasserted after reset
(60_exceptions.md R510). -/
def Obligations.InterruptFollowsStatus : Prop :=
  ∀ (s : State),
    (s.irq = true ↔
      ∃ u, ((s.bank u).doneIe = true ∧ (s.bank u).done = true) ∨
        ((s.bank u).errIe = true ∧ (s.bank u).err.isSome = true)) ∧
    (blockReset s).irq = false ∧ State.reset.irq = false

/-- The identification words of each bank, which no write changes (10_state.md R70, R71, R72). -/
def Obligations.IdentificationWords : Prop :=
  ∀ (s : State) (u : UnitId), s.cfg.legal = true →
    let id := (readReg s u .id).1
    (id.extractLsb' 0 8).toNat = (match u with | .fir => 0x01 | .iir => 0x02 | .win => 0x03) ∧
    (id.extractLsb' 8 8).toNat = (match s.cfg.fmt with | .b32 => 0x20 | .b64 => 0x40) ∧
    id.getLsbD 16 = (s.cfg.hasDesign && decide (u = .fir)) ∧
    id.extractLsb' 17 7 = 0#7 ∧ id.extractLsb' 24 8 = 0x01#8 ∧
    (readReg s u .size0).1.toNat = (match u with | .fir => s.cfg.firSize | .iir => s.cfg.numB | .win => s.cfg.winSize) ∧
    (readReg s u .size1).1.toNat = (match u with | .fir => 0 | .iir => s.cfg.numA | .win => 0) ∧
    ∀ w, writeReg s.cfg u .id w (s.bank u) = s.bank u ∧ writeReg s.cfg u .size0 w (s.bank u) = s.bank u ∧
      writeReg s.cfg u .size1 w (s.bank u) = s.bank u

/-- Reads while busy: HEAD is some value below FIR_SIZE; PROG lies between the last one read and the final count and becomes
the last one read; a DOUT word is the old or the new one; none records an error or changes anything the host can read
otherwise (70_reset_and_hazards.md R562, 40_common.md R255). The final count of a command that rst will abandon is the
model's choice (log 10). -/
def Obligations.BusyReadsAreBounded : Prop :=
  (∀ (s : State), s.cfg.legal = true → s.fir.busy = true →
    (readReg s .fir .head).1.toNat < s.cfg.firSize ∧ (readReg s .fir .head).2 = s.tick) ∧
  (∀ (s : State) (u : UnitId) (p : Pend), (s.bank u).pend = some p →
    let final := (outcomeOf s u p).prog.toNat
    let v := (readReg s u .prog).1.toNat
    ((s.bank u).progSeen ≤ final → (s.bank u).progSeen ≤ v ∧ v ≤ final ∧
      (readReg s u .prog).2 = (s.setBank u { s.bank u with progSeen := v }).tick)) ∧
  (∀ (s : State) (u : UnitId) (p : Pend), (s.bank u).pend = some p →
    ((readReg s u (.lo .dout)).1 = (s.bank u).dout.setWidth 32 ∨
      (readReg s u (.lo .dout)).1 = (outcomeOf s u p).dout.setWidth 32) ∧
    (readReg s u (.lo .dout)).2 = s.tick ∧
    (s.cfg.fmt = .b64 →
      ((readReg s u (.hi .dout)).1 = (s.bank u).dout.extractLsb' 32 32 ∨
        (readReg s u (.hi .dout)).1 = (outcomeOf s u p).dout.extractLsb' 32 32) ∧
      (readReg s u (.hi .dout)).2 = s.tick))

/-- The host's accesses by address. Inside the block's window an access of another width than 32 bits, or at an offset that is
no multiple of 4, changes nothing and gets a bus error response (20_memory.md R131). A 32-bit access at a bank's offset in the
map (10_state.md R50, R61) is the access to that register of that unit, a CMD write the issue of a command; it leaves the
other banks alone; a reserved word is RAZ/WI (R63). Outside the window an access of 1, 2, 4 or 8 bytes that no in-flight range
touches stores or returns the bytes at its address, least significant first, and changes nothing else (30_encoding.md R200,
20_memory.md R143); these widths, and the bus error response to every other access, are the model's choice (log 16). The
host's turn makes the next access of its program, or one turn of a polling loop, or nothing when the program is over (R132,
R200); that the turn is the schedule's, and the program a list, are the model's choices (logs 7, 8). -/
def Obligations.HostAccessesFollowTheMap : Prop :=
  (∀ (s : State) (off width : Nat) (data : BitVec 64), off < 0x400 → (width ≠ 4 ∨ off % 4 ≠ 0) →
    hostWrite (s.cfg.blockBase + off) width data s = .next (s.push .busError) ∧
    hostRead (s.cfg.blockBase + off) width s = .next (s.push .busError)) ∧
  (∀ (s : State) (u : UnitId) (off : Nat) (r : Reg) (data : BitVec 64),
    (off, r) ∈ [(0x00, Reg.id), (0x04, .size0), (0x08, .size1), (0x0C, .ctrl), (0x10, .status), (0x14, .cmd),
      (0x18, .addr), (0x1C, .addr2), (0x20, .len), (0x24, .len2), (0x28, .prog), (0x2C, .cidx), (0x30, .hidx),
      (0x34, .head), (0x38, .errAddr), (0x40, .lo .freqA), (0x44, .hi .freqA), (0x48, .lo .freqB), (0x4C, .hi .freqB),
      (0x50, .lo .din), (0x54, .hi .din), (0x58, .lo .dout), (0x5C, .hi .dout), (0x60, .lo .cdata), (0x64, .hi .cdata),
      (0x68, .lo .hdata), (0x6C, .hi .hdata)] →
    let bank := match u with | .fir => 0x000 | .iir => 0x100 | .win => 0x200
    let t := s.setBank u (writeReg s.cfg u r (data.setWidth 32) (s.bank u))
    hostWrite (s.cfg.blockBase + bank + off) 4 data s =
      (if r = .cmd then writeCmd u (data.setWidth 32) s else .next t) ∧
    hostRead (s.cfg.blockBase + bank + off) 4 s =
      .next ((readReg s u r).2.push (.data ((readReg s u r).1.setWidth 64))) ∧
    (∀ v, v ≠ u → t.bank v = s.bank v ∧ (readReg s u r).2.bank v = s.bank v) ∧
    t.mem = s.mem ∧ (readReg s u r).2.mem = s.mem) ∧
  (∀ (s : State) (off : Nat) (data : BitVec 64), off < 0x400 → off % 4 = 0 →
    (0x300 ≤ off ∨ off % 0x100 = 0x3C ∨ 0x70 ≤ off % 0x100) →
    hostWrite (s.cfg.blockBase + off) 4 data s = .next s ∧
    hostRead (s.cfg.blockBase + off) 4 s = .next (s.push (.data 0#64))) ∧
  (∀ (s : State) (addr width : Nat) (data : BitVec 64), Memory.wf s.mem = true → width ∈ [1, 2, 4, 8] →
    addr + width ≤ 2 ^ 32 → addr + width ≤ s.cfg.blockBase ∨ s.cfg.blockBase + 0x400 ≤ addr →
    (∀ (v : UnitId) (q : Pend) (r : DmaRange), (s.bank v).pend = some q → r ∈ footprint s.cfg q →
      r.touches addr width = false) →
    (∃ m, hostWrite addr width data s = .next { s with mem := m } ∧
      (∀ j, j < width → memGet m (addr + j) = data.extractLsb' (8 * j) 8) ∧
      ∀ a, a < addr ∨ addr + width ≤ a → memGet m a = memGet s.mem a) ∧
    ∃ d : BitVec 64, hostRead addr width s = .next { s with received := .data d :: s.received } ∧
      (∀ j, j < width → d.extractLsb' (8 * j) 8 = memGet s.mem (addr + j)) ∧ d.toNat < 2 ^ (8 * width)) ∧
  (∀ (s : State) (addr width : Nat) (data : BitVec 64), addr < s.cfg.blockBase ∨ s.cfg.blockBase + 0x400 ≤ addr →
    width ∉ [1, 2, 4, 8] ∨ 2 ^ 32 < addr + width ∨ (addr < s.cfg.blockBase ∧ s.cfg.blockBase < addr + width) →
    hostWrite addr width data s = .next { s with received := .busError :: s.received } ∧
    hostRead addr width s = .next { s with received := .busError :: s.received }) ∧
  (∀ (s : State) (turns : List Turn) (rest : List HostOp) (addr width : Nat) (data : BitVec 64) (u : UnitId),
    s.sched = .host :: turns →
    (s.host = .write addr width data :: rest → step s = hostWrite addr width data ((s.withSched turns).withHost rest)) ∧
    (s.host = .read addr width :: rest → step s = hostRead addr width ((s.withSched turns).withHost rest)) ∧
    (s.host = .wait u :: rest → step s = .next { s with
      sched := turns, host := if (s.bank u).busy then s.host else rest,
      received := .data ((statusWord (s.bank u)).setWidth 64) :: s.received }) ∧
    (s.host = [] → step s = .next (s.withSched turns))) ∧
  ∀ (s : State), s.sched = [] → (∀ v, (s.bank v).busy = false) → step s = step (s.withSched [.host])

/-! ### Restore, reset, invariants, progress -/

/-- A unit's results depend on its full state, its latched operands and memory only (10_state.md R95, R96): two banks with
equal coefficients, history and head give equal coefficients, history, head and memory, and PROCESS1 an equal DOUT; the
counter of free values, equal too, is the model's (log 4). So a write between the CMD write and the engine's turn to a
register that latching reads, to CTRL, CIDX or HIDX changes that register and nothing the command does
(70_reset_and_hazards.md R564). -/
def Obligations.FullStateDeterminesResults : Prop :=
  (∀ (i : Instr) (c : Params) (p : Pend) (fail : Option Nat) (m : Memory) (b b' : Bank),
    b.coef = b'.coef → b.hist = b'.hist → b.head = b'.head → b.draws = b'.draws →
    let r := engineOf i c p fail b m
    let r' := engineOf i c p fail b' m
    r.1.coef = r'.1.coef ∧ r.1.hist = r'.1.hist ∧ r.1.head = r'.1.head ∧ r.1.draws = r'.1.draws ∧ r.2 = r'.2 ∧
    (i = .firProcess1 ∨ i = .iirProcess1 → r.1.dout = r'.1.dout)) ∧
  (∀ (s : State) (u : UnitId) (fail : Option Nat) (r : Reg) (w : Word), (s.bank u).busy = true →
    r ∈ [Reg.addr, .addr2, .len, .len2, .lo .freqA, .hi .freqA, .lo .freqB, .hi .freqB, .lo .din, .hi .din, .ctrl,
      .cidx, .hidx] →
    let write := fun t : State => t.setBank u (writeReg s.cfg u r w (t.bank u))
    engineTurn u fail (write s) = write (engineTurn u fail s))

/-- The block reset puts every unit into the reset state, whatever it was doing, and so are State.resetOf of every instance
and State.reset, the one of log 1 (10_state.md R100). A turn .rst of the schedule is the block reset (70_reset_and_hazards.md
R550; that it is a turn is the model's choice, log 23). -/
def Obligations.ResetLeavesTheStatedState : Prop :=
  let isReset := fun (c : Params) (s : State) => s.irq = false ∧ ∀ u : UnitId,
    let b := s.bank u
    b.coef = List.replicate (c.nc u) (if u = .win then fltOne c.fmt else fltZero) ∧
    b.hist = List.replicate (c.nh u) fltZero ∧ b.head = 0 ∧ b.busy = false ∧ b.pend = none ∧
    (b.stFreqA = 0#32 ∧ b.stFreqB = 0#32 ∧ b.stDin = 0#32 ∧ b.stCdata = 0#32 ∧ b.stHdata = 0#32) ∧
    ctrlWord b = 0#32 ∧ statusWord b = 0#32 ∧ b.addr = 0#32 ∧ b.addr2 = 0#32 ∧ b.len = 0#32 ∧ b.len2 = 0#32 ∧
    b.prog = 0#32 ∧ b.cidx = 0#32 ∧ b.hidx = 0#32 ∧ b.errAddr = 0#32 ∧
    (b.freqA = fltZero ∧ b.freqB = fltZero ∧ b.din = fltZero ∧ b.dout = fltZero) ∧
    (readReg s u .id).1 = idWord c u ∧ (readReg s u .size0).1 = size0Word c u ∧ (readReg s u .size1).1 = size1Word c u
  (∀ s : State, isReset s.cfg (blockReset s)) ∧ (∀ c : Params, isReset c (State.resetOf c)) ∧
  isReset Params.default State.reset ∧
  ∀ (s : State) (rest : List Turn), s.sched = .rst :: rest → step s = .next (blockReset (s.withSched rest))

/-- A reset with any number of units in flight: no command completes, none sets DONE, and of each PROCESS and GET_FACTORS
memory holds what a prefix of its elements wrote; every other byte is as it was, so all of memory where no such command is
in flight (70_reset_and_hazards.md R551). A unit's counter of free values goes on past those the prefix took, so later NaNs
are free of them (00_scope.md R20; logs 4, 12). -/
def Obligations.ResetAbandonsCommands : Prop :=
  ∀ (s : State), Inv s →
    let f := s.cfg.fmt
    let t := blockReset s
    let streams := [(Instr.firProcess, stepFir s.cfg), (.iirProcess, stepIir s.cfg)]
    let getters := [Instr.firGetFactors, .iirGetFactors, .winGetFactors]
    (∀ u, (t.bank u).done = false ∧ (t.bank u).busy = false) ∧
    ∃ k : UnitId → Nat,
      (∀ (u : UnitId) (p : Pend), (s.bank u).pend = some p →
        let b := s.bank u
        let base := p.addr.toNat
        (∀ step, (p.op, step) ∈ streams →
          let r := filterStream step b (readVector f s.mem base (k u))
          k u ≤ p.len.toNat ∧ readVector f t.mem base (k u) = r.2 ∧ r.1.draws ≤ (t.bank u).draws) ∧
        (p.op = .winProcess → k u ≤ p.len.toNat ∧ b.draws + k u ≤ (t.bank u).draws ∧
          ∀ j, j < k u → readFlt f t.mem (elemAddr f base j) =
            fmul f (Config.nanDraw .win (b.draws + j)) (readFlt f s.mem (elemAddr f base j)) (b.coef.getD j fltZero)) ∧
        (p.op ∈ getters → k u ≤ p.len.toNat ∧ readVector f t.mem base (k u) = b.coef.take (k u))) ∧
      ∀ a, (∀ (u : UnitId) (p : Pend), (s.bank u).pend = some p →
          p.op ∈ streams.map Prod.fst ∨ p.op = .winProcess ∨ p.op ∈ getters →
          a < p.addr.toNat ∨ elemAddr f p.addr.toNat (k u) ≤ a) →
        memGet t.mem a = memGet s.mem a

/-- The reset state of every legal instance meets the invariant, and State.reset is one (log 1). -/
def Obligations.ResetMeetsInv : Prop :=
  (∀ c : Params, c.legal = true → Inv (State.resetOf c)) ∧ Inv State.reset

/-- Every step keeps the invariant: array lengths and head in range (10_state.md R51, R52), FLT values of the format (R17),
ERRADDR 0 unless BUS_ERROR is recorded (R85), in-flight commands validated and race-free, memory inside its space. Three
clauses are the model's: the latches, which the spec gives only FW = 64, stay 0 with FW = 32 (log 20), memory stays canonical
(log 2), and the last PROG value read stays at most the final one (log 10). -/
def Obligations.StepKeepsInv : Prop :=
  ∀ (s t : State), Inv s → step s = .next t → Inv t

/-- With the schedule exhausted, as many steps as units are in flight complete every command, and in them the host makes no
access: its program and what it received are unchanged (70_reset_and_hazards.md R570; that the engines move first, in order
and without bus error, is the model's choice, logs 6, 7). -/
def Obligations.ExhaustedScheduleDrains : Prop :=
  ∀ (s : State), s.sched = [] →
    let k := ([UnitId.fir, .iir, .win].filter (fun u => (s.bank u).busy)).length
    ∃ t : State, Host.Core.run Sys2Proof.core k s = .next t ∧
      (∀ u, (t.bank u).busy = false) ∧ t.host = s.host ∧ t.received = s.received ∧
      (∀ u, (s.bank u).busy = true → (t.bank u).done = true)
end

