-- ==== Sys2Proof/Laws/State.lean ====
section
/-! SUPPORT. One lemma per field per named update of State and Bank, so that no proof unfolds a record update. -/

namespace Sys2Proof.Machine

/-! ### State updates -/

@[simp] theorem State.withMem_cfg (s : State) (m : Memory) : (s.withMem m).cfg = s.cfg := rfl
@[simp] theorem State.withMem_fir (s : State) (m : Memory) : (s.withMem m).fir = s.fir := rfl
@[simp] theorem State.withMem_iir (s : State) (m : Memory) : (s.withMem m).iir = s.iir := rfl
@[simp] theorem State.withMem_win (s : State) (m : Memory) : (s.withMem m).win = s.win := rfl
@[simp] theorem State.withMem_mem (s : State) (m : Memory) : (s.withMem m).mem = m := rfl
@[simp] theorem State.withMem_host (s : State) (m : Memory) : (s.withMem m).host = s.host := rfl
@[simp] theorem State.withMem_sched (s : State) (m : Memory) : (s.withMem m).sched = s.sched := rfl
@[simp] theorem State.withMem_received (s : State) (m : Memory) : (s.withMem m).received = s.received := rfl
@[simp] theorem State.withMem_freeCtr (s : State) (m : Memory) : (s.withMem m).freeCtr = s.freeCtr := rfl
@[simp] theorem State.withMem_bank (s : State) (m : Memory) (u : UnitId) : (s.withMem m).bank u = s.bank u := by cases u <;> rfl

@[simp] theorem State.withHost_cfg (s : State) (h : List HostOp) : (s.withHost h).cfg = s.cfg := rfl
@[simp] theorem State.withHost_fir (s : State) (h : List HostOp) : (s.withHost h).fir = s.fir := rfl
@[simp] theorem State.withHost_iir (s : State) (h : List HostOp) : (s.withHost h).iir = s.iir := rfl
@[simp] theorem State.withHost_win (s : State) (h : List HostOp) : (s.withHost h).win = s.win := rfl
@[simp] theorem State.withHost_mem (s : State) (h : List HostOp) : (s.withHost h).mem = s.mem := rfl
@[simp] theorem State.withHost_host (s : State) (h : List HostOp) : (s.withHost h).host = h := rfl
@[simp] theorem State.withHost_sched (s : State) (h : List HostOp) : (s.withHost h).sched = s.sched := rfl
@[simp] theorem State.withHost_received (s : State) (h : List HostOp) : (s.withHost h).received = s.received := rfl
@[simp] theorem State.withHost_freeCtr (s : State) (h : List HostOp) : (s.withHost h).freeCtr = s.freeCtr := rfl
@[simp] theorem State.withHost_bank (s : State) (h : List HostOp) (u : UnitId) : (s.withHost h).bank u = s.bank u := by cases u <;> rfl

@[simp] theorem State.withSched_cfg (s : State) (t : List Turn) : (s.withSched t).cfg = s.cfg := rfl
@[simp] theorem State.withSched_fir (s : State) (t : List Turn) : (s.withSched t).fir = s.fir := rfl
@[simp] theorem State.withSched_iir (s : State) (t : List Turn) : (s.withSched t).iir = s.iir := rfl
@[simp] theorem State.withSched_win (s : State) (t : List Turn) : (s.withSched t).win = s.win := rfl
@[simp] theorem State.withSched_mem (s : State) (t : List Turn) : (s.withSched t).mem = s.mem := rfl
@[simp] theorem State.withSched_host (s : State) (t : List Turn) : (s.withSched t).host = s.host := rfl
@[simp] theorem State.withSched_sched (s : State) (t : List Turn) : (s.withSched t).sched = t := rfl
@[simp] theorem State.withSched_received (s : State) (t : List Turn) : (s.withSched t).received = s.received := rfl
@[simp] theorem State.withSched_freeCtr (s : State) (t : List Turn) : (s.withSched t).freeCtr = s.freeCtr := rfl
@[simp] theorem State.withSched_bank (s : State) (t : List Turn) (u : UnitId) : (s.withSched t).bank u = s.bank u := by cases u <;> rfl

@[simp] theorem State.push_cfg (s : State) (r : Response) : (s.push r).cfg = s.cfg := rfl
@[simp] theorem State.push_fir (s : State) (r : Response) : (s.push r).fir = s.fir := rfl
@[simp] theorem State.push_iir (s : State) (r : Response) : (s.push r).iir = s.iir := rfl
@[simp] theorem State.push_win (s : State) (r : Response) : (s.push r).win = s.win := rfl
@[simp] theorem State.push_mem (s : State) (r : Response) : (s.push r).mem = s.mem := rfl
@[simp] theorem State.push_host (s : State) (r : Response) : (s.push r).host = s.host := rfl
@[simp] theorem State.push_sched (s : State) (r : Response) : (s.push r).sched = s.sched := rfl
@[simp] theorem State.push_received (s : State) (r : Response) : (s.push r).received = r :: s.received := rfl
@[simp] theorem State.push_freeCtr (s : State) (r : Response) : (s.push r).freeCtr = s.freeCtr := rfl
@[simp] theorem State.push_bank (s : State) (r : Response) (u : UnitId) : (s.push r).bank u = s.bank u := by cases u <;> rfl

@[simp] theorem State.tick_cfg (s : State) : s.tick.cfg = s.cfg := rfl
@[simp] theorem State.tick_fir (s : State) : s.tick.fir = s.fir := rfl
@[simp] theorem State.tick_iir (s : State) : s.tick.iir = s.iir := rfl
@[simp] theorem State.tick_win (s : State) : s.tick.win = s.win := rfl
@[simp] theorem State.tick_mem (s : State) : s.tick.mem = s.mem := rfl
@[simp] theorem State.tick_host (s : State) : s.tick.host = s.host := rfl
@[simp] theorem State.tick_sched (s : State) : s.tick.sched = s.sched := rfl
@[simp] theorem State.tick_received (s : State) : s.tick.received = s.received := rfl
@[simp] theorem State.tick_freeCtr (s : State) : s.tick.freeCtr = s.freeCtr + 1 := rfl
@[simp] theorem State.tick_bank (s : State) (u : UnitId) : s.tick.bank u = s.bank u := by cases u <;> rfl

@[simp] theorem State.setBank_cfg (s : State) (u : UnitId) (b : Bank) : (s.setBank u b).cfg = s.cfg := by cases u <;> rfl
@[simp] theorem State.setBank_mem (s : State) (u : UnitId) (b : Bank) : (s.setBank u b).mem = s.mem := by cases u <;> rfl
@[simp] theorem State.setBank_host (s : State) (u : UnitId) (b : Bank) : (s.setBank u b).host = s.host := by cases u <;> rfl
@[simp] theorem State.setBank_sched (s : State) (u : UnitId) (b : Bank) : (s.setBank u b).sched = s.sched := by cases u <;> rfl
@[simp] theorem State.setBank_received (s : State) (u : UnitId) (b : Bank) : (s.setBank u b).received = s.received := by cases u <;> rfl
@[simp] theorem State.setBank_freeCtr (s : State) (u : UnitId) (b : Bank) : (s.setBank u b).freeCtr = s.freeCtr := by cases u <;> rfl

@[simp] theorem State.setBank_bank (s : State) (u : UnitId) (b : Bank) : (s.setBank u b).bank u = b := by
  cases u <;> rfl

theorem State.setBank_bank_ne (s : State) {u v : UnitId} (b : Bank) (h : v ≠ u) : (s.setBank u b).bank v = s.bank v := by
  cases u <;> cases v <;> first | rfl | exact absurd rfl h

theorem State.bank_setBank (s : State) (u v : UnitId) (b : Bank) :
    (s.setBank u b).bank v = if v = u then b else s.bank v := by
  by_cases h : v = u
  · subst h; simp
  · simp [h, State.setBank_bank_ne s b h]

@[simp] theorem State.setBank_setBank (s : State) (u : UnitId) (b b' : Bank) :
    (s.setBank u b).setBank u b' = s.setBank u b' := by cases u <;> rfl

@[simp] theorem State.setBank_self (s : State) (u : UnitId) : s.setBank u (s.bank u) = s := by cases u <;> rfl

@[simp] theorem State.bank_fir (s : State) : s.bank .fir = s.fir := rfl

@[simp] theorem State.bank_iir (s : State) : s.bank .iir = s.iir := rfl

@[simp] theorem State.bank_win (s : State) : s.bank .win = s.win := rfl

/-! ### Bank updates -/

@[simp] theorem Bank.raise_coef (b : Bank) (e : ErrCode) : (b.raise e).coef = b.coef := rfl
@[simp] theorem Bank.raise_hist (b : Bank) (e : ErrCode) : (b.raise e).hist = b.hist := rfl
@[simp] theorem Bank.raise_head (b : Bank) (e : ErrCode) : (b.raise e).head = b.head := rfl
@[simp] theorem Bank.raise_pend (b : Bank) (e : ErrCode) : (b.raise e).pend = b.pend := rfl
@[simp] theorem Bank.raise_doneIe (b : Bank) (e : ErrCode) : (b.raise e).doneIe = b.doneIe := rfl
@[simp] theorem Bank.raise_errIe (b : Bank) (e : ErrCode) : (b.raise e).errIe = b.errIe := rfl
@[simp] theorem Bank.raise_done (b : Bank) (e : ErrCode) : (b.raise e).done = b.done := rfl
@[simp] theorem Bank.raise_err (b : Bank) (e : ErrCode) : (b.raise e).err = some (b.err.getD e) := rfl
@[simp] theorem Bank.raise_errAddr (b : Bank) (e : ErrCode) : (b.raise e).errAddr = b.errAddr := rfl
@[simp] theorem Bank.raise_addr (b : Bank) (e : ErrCode) : (b.raise e).addr = b.addr := rfl
@[simp] theorem Bank.raise_addr2 (b : Bank) (e : ErrCode) : (b.raise e).addr2 = b.addr2 := rfl
@[simp] theorem Bank.raise_len (b : Bank) (e : ErrCode) : (b.raise e).len = b.len := rfl
@[simp] theorem Bank.raise_len2 (b : Bank) (e : ErrCode) : (b.raise e).len2 = b.len2 := rfl
@[simp] theorem Bank.raise_prog (b : Bank) (e : ErrCode) : (b.raise e).prog = b.prog := rfl
@[simp] theorem Bank.raise_cidx (b : Bank) (e : ErrCode) : (b.raise e).cidx = b.cidx := rfl
@[simp] theorem Bank.raise_hidx (b : Bank) (e : ErrCode) : (b.raise e).hidx = b.hidx := rfl
@[simp] theorem Bank.raise_freqA (b : Bank) (e : ErrCode) : (b.raise e).freqA = b.freqA := rfl
@[simp] theorem Bank.raise_freqB (b : Bank) (e : ErrCode) : (b.raise e).freqB = b.freqB := rfl
@[simp] theorem Bank.raise_din (b : Bank) (e : ErrCode) : (b.raise e).din = b.din := rfl
@[simp] theorem Bank.raise_dout (b : Bank) (e : ErrCode) : (b.raise e).dout = b.dout := rfl
@[simp] theorem Bank.raise_stFreqA (b : Bank) (e : ErrCode) : (b.raise e).stFreqA = b.stFreqA := rfl
@[simp] theorem Bank.raise_stFreqB (b : Bank) (e : ErrCode) : (b.raise e).stFreqB = b.stFreqB := rfl
@[simp] theorem Bank.raise_stDin (b : Bank) (e : ErrCode) : (b.raise e).stDin = b.stDin := rfl
@[simp] theorem Bank.raise_stCdata (b : Bank) (e : ErrCode) : (b.raise e).stCdata = b.stCdata := rfl
@[simp] theorem Bank.raise_stHdata (b : Bank) (e : ErrCode) : (b.raise e).stHdata = b.stHdata := rfl
@[simp] theorem Bank.raise_draws (b : Bank) (e : ErrCode) : (b.raise e).draws = b.draws := rfl
@[simp] theorem Bank.raise_progSeen (b : Bank) (e : ErrCode) : (b.raise e).progSeen = b.progSeen := rfl

@[simp] theorem Bank.reject_coef (b : Bank) (e : ErrCode) : (b.reject e).coef = b.coef := rfl
@[simp] theorem Bank.reject_hist (b : Bank) (e : ErrCode) : (b.reject e).hist = b.hist := rfl
@[simp] theorem Bank.reject_head (b : Bank) (e : ErrCode) : (b.reject e).head = b.head := rfl
@[simp] theorem Bank.reject_pend (b : Bank) (e : ErrCode) : (b.reject e).pend = b.pend := rfl
@[simp] theorem Bank.reject_doneIe (b : Bank) (e : ErrCode) : (b.reject e).doneIe = b.doneIe := rfl
@[simp] theorem Bank.reject_errIe (b : Bank) (e : ErrCode) : (b.reject e).errIe = b.errIe := rfl
@[simp] theorem Bank.reject_done (b : Bank) (e : ErrCode) : (b.reject e).done = true := rfl
@[simp] theorem Bank.reject_err (b : Bank) (e : ErrCode) : (b.reject e).err = some (b.err.getD e) := rfl
@[simp] theorem Bank.reject_errAddr (b : Bank) (e : ErrCode) : (b.reject e).errAddr = b.errAddr := rfl
@[simp] theorem Bank.reject_addr (b : Bank) (e : ErrCode) : (b.reject e).addr = b.addr := rfl
@[simp] theorem Bank.reject_addr2 (b : Bank) (e : ErrCode) : (b.reject e).addr2 = b.addr2 := rfl
@[simp] theorem Bank.reject_len (b : Bank) (e : ErrCode) : (b.reject e).len = b.len := rfl
@[simp] theorem Bank.reject_len2 (b : Bank) (e : ErrCode) : (b.reject e).len2 = b.len2 := rfl
@[simp] theorem Bank.reject_prog (b : Bank) (e : ErrCode) : (b.reject e).prog = b.prog := rfl
@[simp] theorem Bank.reject_cidx (b : Bank) (e : ErrCode) : (b.reject e).cidx = b.cidx := rfl
@[simp] theorem Bank.reject_hidx (b : Bank) (e : ErrCode) : (b.reject e).hidx = b.hidx := rfl
@[simp] theorem Bank.reject_freqA (b : Bank) (e : ErrCode) : (b.reject e).freqA = b.freqA := rfl
@[simp] theorem Bank.reject_freqB (b : Bank) (e : ErrCode) : (b.reject e).freqB = b.freqB := rfl
@[simp] theorem Bank.reject_din (b : Bank) (e : ErrCode) : (b.reject e).din = b.din := rfl
@[simp] theorem Bank.reject_dout (b : Bank) (e : ErrCode) : (b.reject e).dout = b.dout := rfl
@[simp] theorem Bank.reject_stFreqA (b : Bank) (e : ErrCode) : (b.reject e).stFreqA = b.stFreqA := rfl
@[simp] theorem Bank.reject_stFreqB (b : Bank) (e : ErrCode) : (b.reject e).stFreqB = b.stFreqB := rfl
@[simp] theorem Bank.reject_stDin (b : Bank) (e : ErrCode) : (b.reject e).stDin = b.stDin := rfl
@[simp] theorem Bank.reject_stCdata (b : Bank) (e : ErrCode) : (b.reject e).stCdata = b.stCdata := rfl
@[simp] theorem Bank.reject_stHdata (b : Bank) (e : ErrCode) : (b.reject e).stHdata = b.stHdata := rfl
@[simp] theorem Bank.reject_draws (b : Bank) (e : ErrCode) : (b.reject e).draws = b.draws := rfl
@[simp] theorem Bank.reject_progSeen (b : Bank) (e : ErrCode) : (b.reject e).progSeen = b.progSeen := rfl

@[simp] theorem Bank.accept_coef (b : Bank) (p : Pend) : (b.accept p).coef = b.coef := rfl
@[simp] theorem Bank.accept_hist (b : Bank) (p : Pend) : (b.accept p).hist = b.hist := rfl
@[simp] theorem Bank.accept_head (b : Bank) (p : Pend) : (b.accept p).head = b.head := rfl
@[simp] theorem Bank.accept_pend (b : Bank) (p : Pend) : (b.accept p).pend = some p := rfl
@[simp] theorem Bank.accept_doneIe (b : Bank) (p : Pend) : (b.accept p).doneIe = b.doneIe := rfl
@[simp] theorem Bank.accept_errIe (b : Bank) (p : Pend) : (b.accept p).errIe = b.errIe := rfl
@[simp] theorem Bank.accept_done (b : Bank) (p : Pend) : (b.accept p).done = b.done := rfl
@[simp] theorem Bank.accept_err (b : Bank) (p : Pend) : (b.accept p).err = b.err := rfl
@[simp] theorem Bank.accept_errAddr (b : Bank) (p : Pend) : (b.accept p).errAddr = b.errAddr := rfl
@[simp] theorem Bank.accept_addr (b : Bank) (p : Pend) : (b.accept p).addr = b.addr := rfl
@[simp] theorem Bank.accept_addr2 (b : Bank) (p : Pend) : (b.accept p).addr2 = b.addr2 := rfl
@[simp] theorem Bank.accept_len (b : Bank) (p : Pend) : (b.accept p).len = b.len := rfl
@[simp] theorem Bank.accept_len2 (b : Bank) (p : Pend) : (b.accept p).len2 = b.len2 := rfl
@[simp] theorem Bank.accept_prog (b : Bank) (p : Pend) : (b.accept p).prog = 0#32 := rfl
@[simp] theorem Bank.accept_cidx (b : Bank) (p : Pend) : (b.accept p).cidx = b.cidx := rfl
@[simp] theorem Bank.accept_hidx (b : Bank) (p : Pend) : (b.accept p).hidx = b.hidx := rfl
@[simp] theorem Bank.accept_freqA (b : Bank) (p : Pend) : (b.accept p).freqA = b.freqA := rfl
@[simp] theorem Bank.accept_freqB (b : Bank) (p : Pend) : (b.accept p).freqB = b.freqB := rfl
@[simp] theorem Bank.accept_din (b : Bank) (p : Pend) : (b.accept p).din = b.din := rfl
@[simp] theorem Bank.accept_dout (b : Bank) (p : Pend) : (b.accept p).dout = b.dout := rfl
@[simp] theorem Bank.accept_stFreqA (b : Bank) (p : Pend) : (b.accept p).stFreqA = b.stFreqA := rfl
@[simp] theorem Bank.accept_stFreqB (b : Bank) (p : Pend) : (b.accept p).stFreqB = b.stFreqB := rfl
@[simp] theorem Bank.accept_stDin (b : Bank) (p : Pend) : (b.accept p).stDin = b.stDin := rfl
@[simp] theorem Bank.accept_stCdata (b : Bank) (p : Pend) : (b.accept p).stCdata = b.stCdata := rfl
@[simp] theorem Bank.accept_stHdata (b : Bank) (p : Pend) : (b.accept p).stHdata = b.stHdata := rfl
@[simp] theorem Bank.accept_draws (b : Bank) (p : Pend) : (b.accept p).draws = b.draws := rfl
@[simp] theorem Bank.accept_progSeen (b : Bank) (p : Pend) : (b.accept p).progSeen = 0 := rfl

@[simp] theorem Bank.complete_coef (b : Bank) : b.complete.coef = b.coef := rfl
@[simp] theorem Bank.complete_hist (b : Bank) : b.complete.hist = b.hist := rfl
@[simp] theorem Bank.complete_head (b : Bank) : b.complete.head = b.head := rfl
@[simp] theorem Bank.complete_pend (b : Bank) : b.complete.pend = none := rfl
@[simp] theorem Bank.complete_doneIe (b : Bank) : b.complete.doneIe = b.doneIe := rfl
@[simp] theorem Bank.complete_errIe (b : Bank) : b.complete.errIe = b.errIe := rfl
@[simp] theorem Bank.complete_done (b : Bank) : b.complete.done = true := rfl
@[simp] theorem Bank.complete_err (b : Bank) : b.complete.err = b.err := rfl
@[simp] theorem Bank.complete_errAddr (b : Bank) : b.complete.errAddr = b.errAddr := rfl
@[simp] theorem Bank.complete_addr (b : Bank) : b.complete.addr = b.addr := rfl
@[simp] theorem Bank.complete_addr2 (b : Bank) : b.complete.addr2 = b.addr2 := rfl
@[simp] theorem Bank.complete_len (b : Bank) : b.complete.len = b.len := rfl
@[simp] theorem Bank.complete_len2 (b : Bank) : b.complete.len2 = b.len2 := rfl
@[simp] theorem Bank.complete_prog (b : Bank) : b.complete.prog = b.prog := rfl
@[simp] theorem Bank.complete_cidx (b : Bank) : b.complete.cidx = b.cidx := rfl
@[simp] theorem Bank.complete_hidx (b : Bank) : b.complete.hidx = b.hidx := rfl
@[simp] theorem Bank.complete_freqA (b : Bank) : b.complete.freqA = b.freqA := rfl
@[simp] theorem Bank.complete_freqB (b : Bank) : b.complete.freqB = b.freqB := rfl
@[simp] theorem Bank.complete_din (b : Bank) : b.complete.din = b.din := rfl
@[simp] theorem Bank.complete_dout (b : Bank) : b.complete.dout = b.dout := rfl
@[simp] theorem Bank.complete_stFreqA (b : Bank) : b.complete.stFreqA = b.stFreqA := rfl
@[simp] theorem Bank.complete_stFreqB (b : Bank) : b.complete.stFreqB = b.stFreqB := rfl
@[simp] theorem Bank.complete_stDin (b : Bank) : b.complete.stDin = b.stDin := rfl
@[simp] theorem Bank.complete_stCdata (b : Bank) : b.complete.stCdata = b.stCdata := rfl
@[simp] theorem Bank.complete_stHdata (b : Bank) : b.complete.stHdata = b.stHdata := rfl
@[simp] theorem Bank.complete_draws (b : Bank) : b.complete.draws = b.draws := rfl
@[simp] theorem Bank.complete_progSeen (b : Bank) : b.complete.progSeen = b.progSeen := rfl

@[simp] theorem Bank.setProg_coef (b : Bank) (k : Nat) : (b.setProg k).coef = b.coef := rfl
@[simp] theorem Bank.setProg_hist (b : Bank) (k : Nat) : (b.setProg k).hist = b.hist := rfl
@[simp] theorem Bank.setProg_head (b : Bank) (k : Nat) : (b.setProg k).head = b.head := rfl
@[simp] theorem Bank.setProg_pend (b : Bank) (k : Nat) : (b.setProg k).pend = b.pend := rfl
@[simp] theorem Bank.setProg_doneIe (b : Bank) (k : Nat) : (b.setProg k).doneIe = b.doneIe := rfl
@[simp] theorem Bank.setProg_errIe (b : Bank) (k : Nat) : (b.setProg k).errIe = b.errIe := rfl
@[simp] theorem Bank.setProg_done (b : Bank) (k : Nat) : (b.setProg k).done = b.done := rfl
@[simp] theorem Bank.setProg_err (b : Bank) (k : Nat) : (b.setProg k).err = b.err := rfl
@[simp] theorem Bank.setProg_errAddr (b : Bank) (k : Nat) : (b.setProg k).errAddr = b.errAddr := rfl
@[simp] theorem Bank.setProg_addr (b : Bank) (k : Nat) : (b.setProg k).addr = b.addr := rfl
@[simp] theorem Bank.setProg_addr2 (b : Bank) (k : Nat) : (b.setProg k).addr2 = b.addr2 := rfl
@[simp] theorem Bank.setProg_len (b : Bank) (k : Nat) : (b.setProg k).len = b.len := rfl
@[simp] theorem Bank.setProg_len2 (b : Bank) (k : Nat) : (b.setProg k).len2 = b.len2 := rfl
@[simp] theorem Bank.setProg_prog (b : Bank) (k : Nat) : (b.setProg k).prog = BitVec.ofNat 32 k := rfl
@[simp] theorem Bank.setProg_cidx (b : Bank) (k : Nat) : (b.setProg k).cidx = b.cidx := rfl
@[simp] theorem Bank.setProg_hidx (b : Bank) (k : Nat) : (b.setProg k).hidx = b.hidx := rfl
@[simp] theorem Bank.setProg_freqA (b : Bank) (k : Nat) : (b.setProg k).freqA = b.freqA := rfl
@[simp] theorem Bank.setProg_freqB (b : Bank) (k : Nat) : (b.setProg k).freqB = b.freqB := rfl
@[simp] theorem Bank.setProg_din (b : Bank) (k : Nat) : (b.setProg k).din = b.din := rfl
@[simp] theorem Bank.setProg_dout (b : Bank) (k : Nat) : (b.setProg k).dout = b.dout := rfl
@[simp] theorem Bank.setProg_stFreqA (b : Bank) (k : Nat) : (b.setProg k).stFreqA = b.stFreqA := rfl
@[simp] theorem Bank.setProg_stFreqB (b : Bank) (k : Nat) : (b.setProg k).stFreqB = b.stFreqB := rfl
@[simp] theorem Bank.setProg_stDin (b : Bank) (k : Nat) : (b.setProg k).stDin = b.stDin := rfl
@[simp] theorem Bank.setProg_stCdata (b : Bank) (k : Nat) : (b.setProg k).stCdata = b.stCdata := rfl
@[simp] theorem Bank.setProg_stHdata (b : Bank) (k : Nat) : (b.setProg k).stHdata = b.stHdata := rfl
@[simp] theorem Bank.setProg_draws (b : Bank) (k : Nat) : (b.setProg k).draws = b.draws := rfl
@[simp] theorem Bank.setProg_progSeen (b : Bank) (k : Nat) : (b.setProg k).progSeen = b.progSeen := rfl

@[simp] theorem Bank.useDraws_coef (b : Bank) (n : Nat) : (b.useDraws n).coef = b.coef := rfl
@[simp] theorem Bank.useDraws_hist (b : Bank) (n : Nat) : (b.useDraws n).hist = b.hist := rfl
@[simp] theorem Bank.useDraws_head (b : Bank) (n : Nat) : (b.useDraws n).head = b.head := rfl
@[simp] theorem Bank.useDraws_pend (b : Bank) (n : Nat) : (b.useDraws n).pend = b.pend := rfl
@[simp] theorem Bank.useDraws_doneIe (b : Bank) (n : Nat) : (b.useDraws n).doneIe = b.doneIe := rfl
@[simp] theorem Bank.useDraws_errIe (b : Bank) (n : Nat) : (b.useDraws n).errIe = b.errIe := rfl
@[simp] theorem Bank.useDraws_done (b : Bank) (n : Nat) : (b.useDraws n).done = b.done := rfl
@[simp] theorem Bank.useDraws_err (b : Bank) (n : Nat) : (b.useDraws n).err = b.err := rfl
@[simp] theorem Bank.useDraws_errAddr (b : Bank) (n : Nat) : (b.useDraws n).errAddr = b.errAddr := rfl
@[simp] theorem Bank.useDraws_addr (b : Bank) (n : Nat) : (b.useDraws n).addr = b.addr := rfl
@[simp] theorem Bank.useDraws_addr2 (b : Bank) (n : Nat) : (b.useDraws n).addr2 = b.addr2 := rfl
@[simp] theorem Bank.useDraws_len (b : Bank) (n : Nat) : (b.useDraws n).len = b.len := rfl
@[simp] theorem Bank.useDraws_len2 (b : Bank) (n : Nat) : (b.useDraws n).len2 = b.len2 := rfl
@[simp] theorem Bank.useDraws_prog (b : Bank) (n : Nat) : (b.useDraws n).prog = b.prog := rfl
@[simp] theorem Bank.useDraws_cidx (b : Bank) (n : Nat) : (b.useDraws n).cidx = b.cidx := rfl
@[simp] theorem Bank.useDraws_hidx (b : Bank) (n : Nat) : (b.useDraws n).hidx = b.hidx := rfl
@[simp] theorem Bank.useDraws_freqA (b : Bank) (n : Nat) : (b.useDraws n).freqA = b.freqA := rfl
@[simp] theorem Bank.useDraws_freqB (b : Bank) (n : Nat) : (b.useDraws n).freqB = b.freqB := rfl
@[simp] theorem Bank.useDraws_din (b : Bank) (n : Nat) : (b.useDraws n).din = b.din := rfl
@[simp] theorem Bank.useDraws_dout (b : Bank) (n : Nat) : (b.useDraws n).dout = b.dout := rfl
@[simp] theorem Bank.useDraws_stFreqA (b : Bank) (n : Nat) : (b.useDraws n).stFreqA = b.stFreqA := rfl
@[simp] theorem Bank.useDraws_stFreqB (b : Bank) (n : Nat) : (b.useDraws n).stFreqB = b.stFreqB := rfl
@[simp] theorem Bank.useDraws_stDin (b : Bank) (n : Nat) : (b.useDraws n).stDin = b.stDin := rfl
@[simp] theorem Bank.useDraws_stCdata (b : Bank) (n : Nat) : (b.useDraws n).stCdata = b.stCdata := rfl
@[simp] theorem Bank.useDraws_stHdata (b : Bank) (n : Nat) : (b.useDraws n).stHdata = b.stHdata := rfl
@[simp] theorem Bank.useDraws_draws (b : Bank) (n : Nat) : (b.useDraws n).draws = b.draws + n := rfl
@[simp] theorem Bank.useDraws_progSeen (b : Bank) (n : Nat) : (b.useDraws n).progSeen = b.progSeen := rfl

@[simp] theorem Bank.writeCtrl_coef (b : Bank) (w : Word) : (b.writeCtrl w).coef = b.coef := rfl
@[simp] theorem Bank.writeCtrl_hist (b : Bank) (w : Word) : (b.writeCtrl w).hist = b.hist := rfl
@[simp] theorem Bank.writeCtrl_head (b : Bank) (w : Word) : (b.writeCtrl w).head = b.head := rfl
@[simp] theorem Bank.writeCtrl_pend (b : Bank) (w : Word) : (b.writeCtrl w).pend = b.pend := rfl
@[simp] theorem Bank.writeCtrl_doneIe (b : Bank) (w : Word) : (b.writeCtrl w).doneIe = w.getLsbD 0 := rfl
@[simp] theorem Bank.writeCtrl_errIe (b : Bank) (w : Word) : (b.writeCtrl w).errIe = w.getLsbD 1 := rfl
@[simp] theorem Bank.writeCtrl_done (b : Bank) (w : Word) : (b.writeCtrl w).done = b.done := rfl
@[simp] theorem Bank.writeCtrl_err (b : Bank) (w : Word) : (b.writeCtrl w).err = b.err := rfl
@[simp] theorem Bank.writeCtrl_errAddr (b : Bank) (w : Word) : (b.writeCtrl w).errAddr = b.errAddr := rfl
@[simp] theorem Bank.writeCtrl_addr (b : Bank) (w : Word) : (b.writeCtrl w).addr = b.addr := rfl
@[simp] theorem Bank.writeCtrl_addr2 (b : Bank) (w : Word) : (b.writeCtrl w).addr2 = b.addr2 := rfl
@[simp] theorem Bank.writeCtrl_len (b : Bank) (w : Word) : (b.writeCtrl w).len = b.len := rfl
@[simp] theorem Bank.writeCtrl_len2 (b : Bank) (w : Word) : (b.writeCtrl w).len2 = b.len2 := rfl
@[simp] theorem Bank.writeCtrl_prog (b : Bank) (w : Word) : (b.writeCtrl w).prog = b.prog := rfl
@[simp] theorem Bank.writeCtrl_cidx (b : Bank) (w : Word) : (b.writeCtrl w).cidx = b.cidx := rfl
@[simp] theorem Bank.writeCtrl_hidx (b : Bank) (w : Word) : (b.writeCtrl w).hidx = b.hidx := rfl
@[simp] theorem Bank.writeCtrl_freqA (b : Bank) (w : Word) : (b.writeCtrl w).freqA = b.freqA := rfl
@[simp] theorem Bank.writeCtrl_freqB (b : Bank) (w : Word) : (b.writeCtrl w).freqB = b.freqB := rfl
@[simp] theorem Bank.writeCtrl_din (b : Bank) (w : Word) : (b.writeCtrl w).din = b.din := rfl
@[simp] theorem Bank.writeCtrl_dout (b : Bank) (w : Word) : (b.writeCtrl w).dout = b.dout := rfl
@[simp] theorem Bank.writeCtrl_stFreqA (b : Bank) (w : Word) : (b.writeCtrl w).stFreqA = b.stFreqA := rfl
@[simp] theorem Bank.writeCtrl_stFreqB (b : Bank) (w : Word) : (b.writeCtrl w).stFreqB = b.stFreqB := rfl
@[simp] theorem Bank.writeCtrl_stDin (b : Bank) (w : Word) : (b.writeCtrl w).stDin = b.stDin := rfl
@[simp] theorem Bank.writeCtrl_stCdata (b : Bank) (w : Word) : (b.writeCtrl w).stCdata = b.stCdata := rfl
@[simp] theorem Bank.writeCtrl_stHdata (b : Bank) (w : Word) : (b.writeCtrl w).stHdata = b.stHdata := rfl
@[simp] theorem Bank.writeCtrl_draws (b : Bank) (w : Word) : (b.writeCtrl w).draws = b.draws := rfl
@[simp] theorem Bank.writeCtrl_progSeen (b : Bank) (w : Word) : (b.writeCtrl w).progSeen = b.progSeen := rfl

@[simp] theorem Bank.recordErrAddr_coef (b : Bank) (a : Nat) : (b.recordErrAddr a).coef = b.coef := by
  unfold Bank.recordErrAddr; split <;> rfl
@[simp] theorem Bank.recordErrAddr_hist (b : Bank) (a : Nat) : (b.recordErrAddr a).hist = b.hist := by
  unfold Bank.recordErrAddr; split <;> rfl
@[simp] theorem Bank.recordErrAddr_head (b : Bank) (a : Nat) : (b.recordErrAddr a).head = b.head := by
  unfold Bank.recordErrAddr; split <;> rfl
@[simp] theorem Bank.recordErrAddr_pend (b : Bank) (a : Nat) : (b.recordErrAddr a).pend = b.pend := by
  unfold Bank.recordErrAddr; split <;> rfl
@[simp] theorem Bank.recordErrAddr_doneIe (b : Bank) (a : Nat) : (b.recordErrAddr a).doneIe = b.doneIe := by
  unfold Bank.recordErrAddr; split <;> rfl
@[simp] theorem Bank.recordErrAddr_errIe (b : Bank) (a : Nat) : (b.recordErrAddr a).errIe = b.errIe := by
  unfold Bank.recordErrAddr; split <;> rfl
@[simp] theorem Bank.recordErrAddr_done (b : Bank) (a : Nat) : (b.recordErrAddr a).done = b.done := by
  unfold Bank.recordErrAddr; split <;> rfl
@[simp] theorem Bank.recordErrAddr_err (b : Bank) (a : Nat) : (b.recordErrAddr a).err = b.err := by
  unfold Bank.recordErrAddr; split <;> rfl
@[simp] theorem Bank.recordErrAddr_errAddr (b : Bank) (a : Nat) :
    (b.recordErrAddr a).errAddr = if b.err.isNone then BitVec.ofNat 32 a else b.errAddr := by
  unfold Bank.recordErrAddr; split <;> rfl
@[simp] theorem Bank.recordErrAddr_addr (b : Bank) (a : Nat) : (b.recordErrAddr a).addr = b.addr := by
  unfold Bank.recordErrAddr; split <;> rfl
@[simp] theorem Bank.recordErrAddr_addr2 (b : Bank) (a : Nat) : (b.recordErrAddr a).addr2 = b.addr2 := by
  unfold Bank.recordErrAddr; split <;> rfl
@[simp] theorem Bank.recordErrAddr_len (b : Bank) (a : Nat) : (b.recordErrAddr a).len = b.len := by
  unfold Bank.recordErrAddr; split <;> rfl
@[simp] theorem Bank.recordErrAddr_len2 (b : Bank) (a : Nat) : (b.recordErrAddr a).len2 = b.len2 := by
  unfold Bank.recordErrAddr; split <;> rfl
@[simp] theorem Bank.recordErrAddr_prog (b : Bank) (a : Nat) : (b.recordErrAddr a).prog = b.prog := by
  unfold Bank.recordErrAddr; split <;> rfl
@[simp] theorem Bank.recordErrAddr_cidx (b : Bank) (a : Nat) : (b.recordErrAddr a).cidx = b.cidx := by
  unfold Bank.recordErrAddr; split <;> rfl
@[simp] theorem Bank.recordErrAddr_hidx (b : Bank) (a : Nat) : (b.recordErrAddr a).hidx = b.hidx := by
  unfold Bank.recordErrAddr; split <;> rfl
@[simp] theorem Bank.recordErrAddr_freqA (b : Bank) (a : Nat) : (b.recordErrAddr a).freqA = b.freqA := by
  unfold Bank.recordErrAddr; split <;> rfl
@[simp] theorem Bank.recordErrAddr_freqB (b : Bank) (a : Nat) : (b.recordErrAddr a).freqB = b.freqB := by
  unfold Bank.recordErrAddr; split <;> rfl
@[simp] theorem Bank.recordErrAddr_din (b : Bank) (a : Nat) : (b.recordErrAddr a).din = b.din := by
  unfold Bank.recordErrAddr; split <;> rfl
@[simp] theorem Bank.recordErrAddr_dout (b : Bank) (a : Nat) : (b.recordErrAddr a).dout = b.dout := by
  unfold Bank.recordErrAddr; split <;> rfl
@[simp] theorem Bank.recordErrAddr_stFreqA (b : Bank) (a : Nat) : (b.recordErrAddr a).stFreqA = b.stFreqA := by
  unfold Bank.recordErrAddr; split <;> rfl
@[simp] theorem Bank.recordErrAddr_stFreqB (b : Bank) (a : Nat) : (b.recordErrAddr a).stFreqB = b.stFreqB := by
  unfold Bank.recordErrAddr; split <;> rfl
@[simp] theorem Bank.recordErrAddr_stDin (b : Bank) (a : Nat) : (b.recordErrAddr a).stDin = b.stDin := by
  unfold Bank.recordErrAddr; split <;> rfl
@[simp] theorem Bank.recordErrAddr_stCdata (b : Bank) (a : Nat) : (b.recordErrAddr a).stCdata = b.stCdata := by
  unfold Bank.recordErrAddr; split <;> rfl
@[simp] theorem Bank.recordErrAddr_stHdata (b : Bank) (a : Nat) : (b.recordErrAddr a).stHdata = b.stHdata := by
  unfold Bank.recordErrAddr; split <;> rfl
@[simp] theorem Bank.recordErrAddr_draws (b : Bank) (a : Nat) : (b.recordErrAddr a).draws = b.draws := by
  unfold Bank.recordErrAddr; split <;> rfl
@[simp] theorem Bank.recordErrAddr_progSeen (b : Bank) (a : Nat) : (b.recordErrAddr a).progSeen = b.progSeen := by
  unfold Bank.recordErrAddr; split <;> rfl

@[simp] theorem Bank.busError_coef (b : Bank) (a : Nat) : (b.busError a).coef = b.coef := by simp [Bank.busError]
@[simp] theorem Bank.busError_hist (b : Bank) (a : Nat) : (b.busError a).hist = b.hist := by simp [Bank.busError]
@[simp] theorem Bank.busError_head (b : Bank) (a : Nat) : (b.busError a).head = b.head := by simp [Bank.busError]
@[simp] theorem Bank.busError_pend (b : Bank) (a : Nat) : (b.busError a).pend = b.pend := by simp [Bank.busError]
@[simp] theorem Bank.busError_doneIe (b : Bank) (a : Nat) : (b.busError a).doneIe = b.doneIe := by simp [Bank.busError]
@[simp] theorem Bank.busError_errIe (b : Bank) (a : Nat) : (b.busError a).errIe = b.errIe := by simp [Bank.busError]
@[simp] theorem Bank.busError_done (b : Bank) (a : Nat) : (b.busError a).done = b.done := by simp [Bank.busError]
@[simp] theorem Bank.busError_err (b : Bank) (a : Nat) : (b.busError a).err = some (b.err.getD .busError) := by
  simp [Bank.busError]
@[simp] theorem Bank.busError_errAddr (b : Bank) (a : Nat) :
    (b.busError a).errAddr = if b.err.isNone then BitVec.ofNat 32 a else b.errAddr := by simp [Bank.busError]
@[simp] theorem Bank.busError_addr (b : Bank) (a : Nat) : (b.busError a).addr = b.addr := by simp [Bank.busError]
@[simp] theorem Bank.busError_addr2 (b : Bank) (a : Nat) : (b.busError a).addr2 = b.addr2 := by simp [Bank.busError]
@[simp] theorem Bank.busError_len (b : Bank) (a : Nat) : (b.busError a).len = b.len := by simp [Bank.busError]
@[simp] theorem Bank.busError_len2 (b : Bank) (a : Nat) : (b.busError a).len2 = b.len2 := by simp [Bank.busError]
@[simp] theorem Bank.busError_prog (b : Bank) (a : Nat) : (b.busError a).prog = b.prog := by simp [Bank.busError]
@[simp] theorem Bank.busError_cidx (b : Bank) (a : Nat) : (b.busError a).cidx = b.cidx := by simp [Bank.busError]
@[simp] theorem Bank.busError_hidx (b : Bank) (a : Nat) : (b.busError a).hidx = b.hidx := by simp [Bank.busError]
@[simp] theorem Bank.busError_freqA (b : Bank) (a : Nat) : (b.busError a).freqA = b.freqA := by simp [Bank.busError]
@[simp] theorem Bank.busError_freqB (b : Bank) (a : Nat) : (b.busError a).freqB = b.freqB := by simp [Bank.busError]
@[simp] theorem Bank.busError_din (b : Bank) (a : Nat) : (b.busError a).din = b.din := by simp [Bank.busError]
@[simp] theorem Bank.busError_dout (b : Bank) (a : Nat) : (b.busError a).dout = b.dout := by simp [Bank.busError]
@[simp] theorem Bank.busError_stFreqA (b : Bank) (a : Nat) : (b.busError a).stFreqA = b.stFreqA := by simp [Bank.busError]
@[simp] theorem Bank.busError_stFreqB (b : Bank) (a : Nat) : (b.busError a).stFreqB = b.stFreqB := by simp [Bank.busError]
@[simp] theorem Bank.busError_stDin (b : Bank) (a : Nat) : (b.busError a).stDin = b.stDin := by simp [Bank.busError]
@[simp] theorem Bank.busError_stCdata (b : Bank) (a : Nat) : (b.busError a).stCdata = b.stCdata := by simp [Bank.busError]
@[simp] theorem Bank.busError_stHdata (b : Bank) (a : Nat) : (b.busError a).stHdata = b.stHdata := by simp [Bank.busError]
@[simp] theorem Bank.busError_draws (b : Bank) (a : Nat) : (b.busError a).draws = b.draws := by simp [Bank.busError]
@[simp] theorem Bank.busError_progSeen (b : Bank) (a : Nat) : (b.busError a).progSeen = b.progSeen := by simp [Bank.busError]

@[simp] theorem Bank.clearStatus_coef (b : Bank) (w : Word) : (b.clearStatus w).coef = b.coef := by
  unfold Bank.clearStatus; dsimp only; split <;> split <;> simp_all
@[simp] theorem Bank.clearStatus_hist (b : Bank) (w : Word) : (b.clearStatus w).hist = b.hist := by
  unfold Bank.clearStatus; dsimp only; split <;> split <;> simp_all
@[simp] theorem Bank.clearStatus_head (b : Bank) (w : Word) : (b.clearStatus w).head = b.head := by
  unfold Bank.clearStatus; dsimp only; split <;> split <;> simp_all
@[simp] theorem Bank.clearStatus_pend (b : Bank) (w : Word) : (b.clearStatus w).pend = b.pend := by
  unfold Bank.clearStatus; dsimp only; split <;> split <;> simp_all
@[simp] theorem Bank.clearStatus_doneIe (b : Bank) (w : Word) : (b.clearStatus w).doneIe = b.doneIe := by
  unfold Bank.clearStatus; dsimp only; split <;> split <;> simp_all
@[simp] theorem Bank.clearStatus_errIe (b : Bank) (w : Word) : (b.clearStatus w).errIe = b.errIe := by
  unfold Bank.clearStatus; dsimp only; split <;> split <;> simp_all
@[simp] theorem Bank.clearStatus_done (b : Bank) (w : Word) : (b.clearStatus w).done = if w.getLsbD 1 then false else b.done := by
  unfold Bank.clearStatus; dsimp only; split <;> split <;> simp_all
@[simp] theorem Bank.clearStatus_err (b : Bank) (w : Word) : (b.clearStatus w).err = if w.getLsbD 2 then none else b.err := by
  unfold Bank.clearStatus; dsimp only; split <;> split <;> simp_all
@[simp] theorem Bank.clearStatus_errAddr (b : Bank) (w : Word) : (b.clearStatus w).errAddr = if w.getLsbD 2 then 0#32 else b.errAddr := by
  unfold Bank.clearStatus; dsimp only; split <;> split <;> simp_all
@[simp] theorem Bank.clearStatus_addr (b : Bank) (w : Word) : (b.clearStatus w).addr = b.addr := by
  unfold Bank.clearStatus; dsimp only; split <;> split <;> simp_all
@[simp] theorem Bank.clearStatus_addr2 (b : Bank) (w : Word) : (b.clearStatus w).addr2 = b.addr2 := by
  unfold Bank.clearStatus; dsimp only; split <;> split <;> simp_all
@[simp] theorem Bank.clearStatus_len (b : Bank) (w : Word) : (b.clearStatus w).len = b.len := by
  unfold Bank.clearStatus; dsimp only; split <;> split <;> simp_all
@[simp] theorem Bank.clearStatus_len2 (b : Bank) (w : Word) : (b.clearStatus w).len2 = b.len2 := by
  unfold Bank.clearStatus; dsimp only; split <;> split <;> simp_all
@[simp] theorem Bank.clearStatus_prog (b : Bank) (w : Word) : (b.clearStatus w).prog = b.prog := by
  unfold Bank.clearStatus; dsimp only; split <;> split <;> simp_all
@[simp] theorem Bank.clearStatus_cidx (b : Bank) (w : Word) : (b.clearStatus w).cidx = b.cidx := by
  unfold Bank.clearStatus; dsimp only; split <;> split <;> simp_all
@[simp] theorem Bank.clearStatus_hidx (b : Bank) (w : Word) : (b.clearStatus w).hidx = b.hidx := by
  unfold Bank.clearStatus; dsimp only; split <;> split <;> simp_all
@[simp] theorem Bank.clearStatus_freqA (b : Bank) (w : Word) : (b.clearStatus w).freqA = b.freqA := by
  unfold Bank.clearStatus; dsimp only; split <;> split <;> simp_all
@[simp] theorem Bank.clearStatus_freqB (b : Bank) (w : Word) : (b.clearStatus w).freqB = b.freqB := by
  unfold Bank.clearStatus; dsimp only; split <;> split <;> simp_all
@[simp] theorem Bank.clearStatus_din (b : Bank) (w : Word) : (b.clearStatus w).din = b.din := by
  unfold Bank.clearStatus; dsimp only; split <;> split <;> simp_all
@[simp] theorem Bank.clearStatus_dout (b : Bank) (w : Word) : (b.clearStatus w).dout = b.dout := by
  unfold Bank.clearStatus; dsimp only; split <;> split <;> simp_all
@[simp] theorem Bank.clearStatus_stFreqA (b : Bank) (w : Word) : (b.clearStatus w).stFreqA = b.stFreqA := by
  unfold Bank.clearStatus; dsimp only; split <;> split <;> simp_all
@[simp] theorem Bank.clearStatus_stFreqB (b : Bank) (w : Word) : (b.clearStatus w).stFreqB = b.stFreqB := by
  unfold Bank.clearStatus; dsimp only; split <;> split <;> simp_all
@[simp] theorem Bank.clearStatus_stDin (b : Bank) (w : Word) : (b.clearStatus w).stDin = b.stDin := by
  unfold Bank.clearStatus; dsimp only; split <;> split <;> simp_all
@[simp] theorem Bank.clearStatus_stCdata (b : Bank) (w : Word) : (b.clearStatus w).stCdata = b.stCdata := by
  unfold Bank.clearStatus; dsimp only; split <;> split <;> simp_all
@[simp] theorem Bank.clearStatus_stHdata (b : Bank) (w : Word) : (b.clearStatus w).stHdata = b.stHdata := by
  unfold Bank.clearStatus; dsimp only; split <;> split <;> simp_all
@[simp] theorem Bank.clearStatus_draws (b : Bank) (w : Word) : (b.clearStatus w).draws = b.draws := by
  unfold Bank.clearStatus; dsimp only; split <;> split <;> simp_all
@[simp] theorem Bank.clearStatus_progSeen (b : Bank) (w : Word) : (b.clearStatus w).progSeen = b.progSeen := by
  unfold Bank.clearStatus; dsimp only; split <;> split <;> simp_all

end Sys2Proof.Machine
end

