-- ==== Sys2Proof/Laws/Command.lean ====
section
/-! SUPPORT. What the CMD write can do, said once (40_common.md R230): the inversion lemma of `issue`, its value in each
case, and the invariant after an acceptance. -/

namespace Sys2Proof.Machine

variable {i : Instr} {check : Params → Pend → Option ErrCode} {eng : Engine} {s : State}

theorem issue_busy (h : (s.bank i.unit).busy = true) : issue i check eng s = .next (s.raiseIn i.unit .busy) := by
  simp [issue, h]

theorem issue_illegal (hb : (s.bank i.unit).busy = false) (h : i.wf s.cfg = false) :
    issue i check eng s = .next (s.rejectIn i.unit .illegalCmd) := by
  simp [issue, hb, h]

theorem issue_invalid {e : ErrCode} (hb : (s.bank i.unit).busy = false) (hw : i.wf s.cfg = true)
    (h : check s.cfg (s.latched i) = some e) : issue i check eng s = .next (s.rejectIn i.unit e) := by
  simp [issue, hb, hw, show check s.cfg (latch i (s.bank i.unit)) = some e from h]

theorem issue_window (hb : (s.bank i.unit).busy = false) (hw : i.wf s.cfg = true)
    (hc : check s.cfg (s.latched i) = none) (h : hitsWindow s.cfg (s.latched i) = true) :
    issue i check eng s = .fault (.windowOverlap i.unit) := by
  simp [issue, hb, hw, show check s.cfg (latch i (s.bank i.unit)) = none from hc,
    show hitsWindow s.cfg (latch i (s.bank i.unit)) = true from h]

theorem issue_race {v : UnitId} (hb : (s.bank i.unit).busy = false) (hw : i.wf s.cfg = true)
    (hc : check s.cfg (s.latched i) = none) (hh : hitsWindow s.cfg (s.latched i) = false)
    (h : raceOf s i.unit (s.latched i) = some v) : issue i check eng s = .fault (.unitRace i.unit v) := by
  simp [issue, hb, hw, show check s.cfg (latch i (s.bank i.unit)) = none from hc,
    show hitsWindow s.cfg (latch i (s.bank i.unit)) = false from hh,
    show raceOf s i.unit (latch i (s.bank i.unit)) = some v from h]

theorem issue_accepted (hb : (s.bank i.unit).busy = false) (hw : i.wf s.cfg = true)
    (hc : check s.cfg (s.latched i) = none) (hh : hitsWindow s.cfg (s.latched i) = false)
    (hr : raceOf s i.unit (s.latched i) = none) :
    issue i check eng s = .next (acceptRun i.unit eng (s.latched i) s) := by
  simp [issue, State.latched, hb, hw, show check s.cfg (latch i (s.bank i.unit)) = none from hc,
    show hitsWindow s.cfg (latch i (s.bank i.unit)) = false from hh,
    show raceOf s i.unit (latch i (s.bank i.unit)) = none from hr]

/-- If a CMD write answers next t, it was dropped, rejected as illegal, rejected by validation, or accepted. -/
theorem issue_cases {t : State} (h : issue i check eng s = .next t) :
    ((s.bank i.unit).busy = true ∧ t = s.raiseIn i.unit .busy) ∨
    ((s.bank i.unit).busy = false ∧ i.wf s.cfg = false ∧ t = s.rejectIn i.unit .illegalCmd) ∨
    ((s.bank i.unit).busy = false ∧ i.wf s.cfg = true ∧
      ∃ e, check s.cfg (s.latched i) = some e ∧ t = s.rejectIn i.unit e) ∨
    ((s.bank i.unit).busy = false ∧ i.wf s.cfg = true ∧ check s.cfg (s.latched i) = none ∧
      hitsWindow s.cfg (s.latched i) = false ∧ raceOf s i.unit (s.latched i) = none ∧
      t = acceptRun i.unit eng (s.latched i) s) := by
  cases hb : (s.bank i.unit).busy
  · cases hw : i.wf s.cfg
    · rw [issue_illegal hb hw] at h; cases h; simp
    · cases hc : check s.cfg (s.latched i) with
      | some e => rw [issue_invalid hb hw hc] at h; cases h; simp
      | none =>
        cases hh : hitsWindow s.cfg (s.latched i)
        · cases hr : raceOf s i.unit (s.latched i) with
          | some v => rw [issue_race hb hw hc hh hr] at h; cases h
          | none => rw [issue_accepted hb hw hc hh hr] at h; cases h; simp
        · rw [issue_window hb hw hc hh] at h; cases h
  · rw [issue_busy hb] at h; cases h; simp

/-- Every arm of exec is the CMD write of its command with the validation and the engine the tables name. -/
theorem exec_eq_issue (i : Instr) (s : State) : exec i s = issue i (checkOf i) (engineOf i) s := by
  cases i <;> rfl

/-- What acceptance does when the engine waits for its turn. -/
theorem acceptRun_deferred {u : UnitId} {p : Pend} (h : engineNext u s.sched = none) :
    acceptRun u eng p s = s.setBank u ((s.bank u).accept p) := by
  simp [acceptRun, h]

/-- What acceptance does when the engine moves next. -/
theorem acceptRun_now {u : UnitId} {p : Pend} {fail : Option Nat} {rest : List Turn}
    (h : engineNext u s.sched = some (fail, rest)) :
    acceptRun u eng p s =
      ((s.withSched rest).setBank u (eng s.cfg p fail ((s.bank u).accept p) s.mem).1.complete).withMem
        (eng s.cfg p fail ((s.bank u).accept p) s.mem).2 := by
  simp only [acceptRun, State.setBank_sched, h, runEngine]
  cases u <;> rfl

/-- A ready command whose engine moves next runs to its completion in the step of its CMD write. -/
theorem exec_ready_now {fail : Option Nat} {rest : List Turn} (h : Ready i s)
    (hn : engineNext i.unit s.sched = some (fail, rest)) :
    exec i s = .next (((s.withSched rest).setBank i.unit
        (engineOf i s.cfg (s.latched i) fail ((s.bank i.unit).accept (s.latched i)) s.mem).1.complete).withMem
        (engineOf i s.cfg (s.latched i) fail ((s.bank i.unit).accept (s.latched i)) s.mem).2) := by
  rw [exec_eq_issue, issue_accepted h.idle h.legal h.valid h.window h.noRace, acceptRun_now hn]

/-- A ready command whose engine waits stays in flight. -/
theorem exec_ready_deferred (h : Ready i s) (hn : engineNext i.unit s.sched = none) :
    exec i s = .next (s.setBank i.unit ((s.bank i.unit).accept (s.latched i))) := by
  rw [exec_eq_issue, issue_accepted h.idle h.legal h.valid h.window h.noRace, acceptRun_deferred hn]

/-- If a command answers next t, it was rejected with an error, or is in flight, or has run to its completion. -/
theorem exec_cases {i : Instr} {s t : State} (h : exec i s = .next t) :
    (∃ e d, t = s.setBank i.unit { (s.bank i.unit).raise e with done := d } ) ∨
    (Ready i s ∧ engineNext i.unit s.sched = none ∧ t = s.setBank i.unit ((s.bank i.unit).accept (s.latched i))) ∨
    (Ready i s ∧ ∃ fail rest, engineNext i.unit s.sched = some (fail, rest) ∧ t = ((s.withSched rest).setBank i.unit
        (engineOf i s.cfg (s.latched i) fail ((s.bank i.unit).accept (s.latched i)) s.mem).1.complete).withMem
        (engineOf i s.cfg (s.latched i) fail ((s.bank i.unit).accept (s.latched i)) s.mem).2) := by
  rw [exec_eq_issue] at h
  rcases issue_cases h with ⟨_, rfl⟩ | ⟨_, _, rfl⟩ | ⟨_, _, e, _, rfl⟩ | ⟨a, b, c, d, e, rfl⟩
  · exact .inl ⟨.busy, (s.bank i.unit).done, rfl⟩
  · exact .inl ⟨.illegalCmd, true, rfl⟩
  · exact .inl ⟨e, true, rfl⟩
  · have hr : Ready i s := ⟨a, b, c, d, e⟩
    cases hn : engineNext i.unit s.sched with
    | none => exact .inr (.inl ⟨hr, rfl, acceptRun_deferred hn⟩)
    | some x => exact .inr (.inr ⟨hr, x.1, x.2, rfl, acceptRun_now hn⟩)

/-- Conflict does not depend on which command comes first. -/
theorem pendsConflict_symm (c : Params) (p q : Pend) : pendsConflict c p q = pendsConflict c q p := by
  have one : ∀ r r' : DmaRange, r.conflicts r' = r'.conflicts r := by
    intro r r'
    simp only [DmaRange.conflicts, DmaRange.touches, Bool.or_comm r.writes]
    congr 1
    rw [Bool.eq_iff_iff]; simp only [Bool.and_eq_true, decide_eq_true_eq]; omega
  rw [Bool.eq_iff_iff]
  simp only [pendsConflict, List.any_eq_true]
  constructor <;> (rintro ⟨r, hr, r', hr', h⟩; exact ⟨r', hr', r, hr, by rw [one]; exact h⟩)

/-- A record that races with no unit conflicts with none in flight. -/
theorem noConflict_of_raceOf {u v : UnitId} {p q : Pend} (h : raceOf s u p = none) (hv : v ≠ u)
    (hq : (s.bank v).pend = some q) : pendsConflict s.cfg p q = false := by
  have := List.find?_eq_none.mp h v (by cases v <;> simp)
  simpa [hv, racesWith, hq] using this

/-- The invariant survives the acceptance of a ready command. -/
theorem Inv.accepted {i : Instr} (h : Inv s) (hr : Ready i s) :
    Inv (s.setBank i.unit ((s.bank i.unit).accept (s.latched i))) := by
  have hp : ∀ v q, ((s.setBank i.unit ((s.bank i.unit).accept (s.latched i))).bank v).pend = some q →
      (v = i.unit ∧ q = s.latched i) ∨ (v ≠ i.unit ∧ (s.bank v).pend = some q) := by
    intro v q hq
    by_cases hv : v = i.unit
    · subst hv
      rw [State.setBank_bank] at hq
      exact .inl ⟨rfl, (Option.some.inj hq).symm⟩
    · rw [State.setBank_bank_ne _ _ hv] at hq; exact .inr ⟨hv, hq⟩
  have b := h.banks i.unit
  have op : (s.latched i).op = i := rfl
  have here : BankInv s.cfg i.unit ((s.bank i.unit).accept (s.latched i)) :=
    ⟨b.coefLen, b.histLen, b.head, b.coefFit, b.histFit, b.regsFit, b.latches, b.errAddr, fun p hp => by
      cases hp
      exact ⟨rfl, hr.legal, hr.valid, hr.window, b.regsFit.1, b.regsFit.2.1, b.regsFit.2.2.1⟩⟩
  refine ⟨by simpa using h.legal, fun v => ?_, by simpa using h.memWf, by simpa using h.memTop, ?_, ?_⟩
  · rw [State.setBank_cfg]
    by_cases hv : v = i.unit
    · subst hv; rw [State.setBank_bank]; exact here
    · rw [State.setBank_bank_ne _ _ hv]; exact h.banks v
  · intro u v p q huv hu hv
    rw [State.setBank_cfg]
    rcases hp u p hu with ⟨rfl, rfl⟩ | ⟨hu1, hu2⟩ <;> rcases hp v q hv with ⟨rfl, rfl⟩ | ⟨hv1, hv2⟩
    · exact absurd rfl huv
    · exact noConflict_of_raceOf hr.noRace hv1 hv2
    · rw [pendsConflict_symm]; exact noConflict_of_raceOf hr.noRace hu1 hu2
    · exact h.noRace u v p q huv hu2 hv2
  · intro v q hq
    by_cases hv : v = i.unit
    · subst hv; rw [State.setBank_bank]; exact Nat.zero_le _
    · have e := State.setBank_bank_ne s ((s.bank i.unit).accept (s.latched i)) hv
      rw [e] at hq
      simp only [outcomeOf, e, State.setBank_sched, State.setBank_cfg, State.setBank_mem]
      exact h.progSeen v q hq

end Sys2Proof.Machine
end

