-- ==== Sys2Proof/Laws/Memory.lean ====
section
/-! SUPPORT. The memory's laws: read after write, every other byte unchanged, the canonical form kept. -/

namespace Sys2Proof.Machine

theorem memGet_memSet_same (m : Memory) (a : Nat) (v : Byte) (h : Memory.wf m = true) : memGet (memSet m a v) a = v := by
  induction m with
  | nil => unfold memSet; split <;> simp_all [memGet]
  | cons c rest ih =>
    obtain ⟨x, y⟩ := c
    simp only [Memory.wf, Bool.and_eq_true, decide_eq_true_eq, List.all_eq_true] at h
    have absent : ∀ r : Memory, (∀ c ∈ r, a < c.1) → memGet r a = unlistedByte := by
      intro r hr
      induction r with
      | nil => rfl
      | cons d r ihr =>
        obtain ⟨z, w⟩ := d
        have hz : a < z := hr (z, w) (by simp)
        have hne : ¬ z = a := by omega
        simp only [memGet, hne, if_false]
        exact ihr fun c hc => hr c (by simp [hc])
    unfold memSet
    split
    · next hlt =>
      split
      · next hv =>
        rw [hv]
        refine absent _ fun c hc => ?_
        rcases List.mem_cons.mp hc with rfl | hc
        · exact hlt
        · have := h.1.2 c hc; omega
      · simp [memGet]
    · next hlt =>
      split
      · next heq =>
        subst heq
        split
        · next hv => rw [hv]; exact absent _ fun c hc => h.1.2 c hc
        · simp [memGet]
      · next hne =>
        have hxa : ¬ x = a := by omega
        simp only [memGet, hxa, if_false]
        exact ih h.2

theorem memGet_memSet_other (m : Memory) (a b : Nat) (v : Byte) (hab : b ≠ a) :
    memGet (memSet m a v) b = memGet m b := by
  induction m with
  | nil => unfold memSet; split <;> simp [memGet, hab.symm]
  | cons c rest ih =>
    obtain ⟨x, y⟩ := c
    unfold memSet
    split
    · split <;> simp [memGet, hab.symm]
    · split
      · next heq => subst heq; split <;> simp [memGet, hab.symm]
      · by_cases hx : x = b
        · simp [memGet, hx]
        · simp [memGet, hx, ih]

/-- Every address of a memory after a store was there before or is the one stored to. -/
theorem mem_memSet (m : Memory) (a : Nat) (v : Byte) {c : Host.Cell} (h : c ∈ memSet m a v) : c ∈ m ∨ c = (a, v) := by
  induction m with
  | nil => unfold memSet at h; split at h <;> simp_all
  | cons d rest ih =>
    obtain ⟨x, y⟩ := d
    unfold memSet at h
    split at h
    · split at h
      · exact .inl h
      · rcases List.mem_cons.mp h with h | h
        · exact .inr h
        · exact .inl h
    · split at h
      · split at h
        · exact .inl (List.mem_cons_of_mem _ h)
        · rcases List.mem_cons.mp h with h | h
          · exact .inr h
          · exact .inl (List.mem_cons_of_mem _ h)
      · rcases List.mem_cons.mp h with h | h
        · exact .inl (by simp [h])
        · rcases ih h with h | h
          · exact .inl (List.mem_cons_of_mem _ h)
          · exact .inr h

theorem memSet_wf (m : Memory) (a : Nat) (v : Byte) (h : Memory.wf m = true) : Memory.wf (memSet m a v) = true := by
  induction m with
  | nil => unfold memSet; split <;> simp_all [Memory.wf]
  | cons c rest ih =>
    obtain ⟨x, y⟩ := c
    have h0 := h
    simp only [Memory.wf, Bool.and_eq_true, decide_eq_true_eq, List.all_eq_true] at h
    unfold memSet
    split
    · next hlt =>
      split
      · exact h0
      · next hv =>
        simp only [Memory.wf, Bool.and_eq_true, decide_eq_true_eq, List.all_eq_true]
        refine ⟨⟨hv, fun c hc => ?_⟩, h⟩
        rcases List.mem_cons.mp hc with rfl | hc
        · exact hlt
        · have := h.1.2 c hc; omega
    · next hlt =>
      split
      · next heq =>
        split
        · exact h.2
        · next hv =>
          simp only [Memory.wf, Bool.and_eq_true, decide_eq_true_eq, List.all_eq_true]
          exact ⟨⟨hv, fun c hc => by have := h.1.2 c hc; omega⟩, h.2⟩
      · next hne =>
        simp only [Memory.wf, Bool.and_eq_true, decide_eq_true_eq, List.all_eq_true]
        refine ⟨⟨h.1.1, fun c hc => ?_⟩, ih h.2⟩
        rcases mem_memSet rest a v hc with hc | rfl
        · exact h.1.2 c hc
        · simp only; omega

theorem writeBytes_wf (n : Nat) (m : Memory) (a v : Nat) (h : Memory.wf m = true) :
    Memory.wf (writeBytes m a n v) = true := by
  induction n generalizing m a v with
  | zero => exact h
  | succ n ih => exact ih _ _ _ (memSet_wf _ _ _ h)

theorem writeFlt_wf (f : Fmt) (m : Memory) (a : Nat) (v : Flt) (h : Memory.wf m = true) :
    Memory.wf (writeFlt f m a v) = true := writeBytes_wf _ _ _ _ h

theorem memGet_writeBytes_outside (n : Nat) (m : Memory) (a v b : Nat) (h : b < a ∨ a + n ≤ b) :
    memGet (writeBytes m a n v) b = memGet m b := by
  induction n generalizing m a v with
  | zero => rfl
  | succ n ih =>
    rw [writeBytes, ih _ _ _ (by omega), memGet_memSet_other _ _ _ _ (by omega)]

/-- Byte j of the value stored lies j places after the store's address (20_memory.md R143). -/
theorem memGet_writeBytes_inside (n : Nat) (m : Memory) (a v j : Nat) (h : Memory.wf m = true) (hj : j < n) :
    memGet (writeBytes m a n v) (a + j) = BitVec.ofNat 8 (v / 256 ^ j) := by
  induction n generalizing m a v j with
  | zero => omega
  | succ n ih =>
    rw [writeBytes]
    cases j with
    | zero =>
      simp only [Nat.add_zero, pow_zero, Nat.div_one]
      rw [memGet_writeBytes_outside _ _ _ _ _ (by omega), memGet_memSet_same _ _ _ h]
    | succ j =>
      rw [show a + (j + 1) = a + 1 + j by omega, ih _ _ _ _ (memSet_wf _ _ _ h) (by omega), Nat.div_div_eq_div_mul,
        Nat.pow_succ']

/-- Byte j of the number read is the byte j places after the read's address. -/
theorem readBytes_byte (n : Nat) (m : Memory) (a j : Nat) (hj : j < n) :
    BitVec.ofNat 8 (readBytes m a n / 256 ^ j) = memGet m (a + j) := by
  induction n generalizing a j with
  | zero => omega
  | succ n ih =>
    rw [readBytes]
    have hb := (memGet m a).isLt
    cases j with
    | zero => apply BitVec.eq_of_toNat_eq; simp; omega
    | succ j =>
      rw [show a + (j + 1) = a + 1 + j by omega, ← ih (a + 1) j (by omega), Nat.pow_succ', ← Nat.div_div_eq_div_mul,
        show ((memGet m a).toNat + 256 * readBytes m (a + 1) n) / 256 = readBytes m (a + 1) n by omega]

theorem memGet_writeFlt_outside (f : Fmt) (m : Memory) (a b : Nat) (v : Flt) (h : b < a ∨ a + fltBytes f ≤ b) :
    memGet (writeFlt f m a v) b = memGet m b := memGet_writeBytes_outside _ _ _ _ _ h

/-- Reading n bytes depends on those bytes only. -/
theorem readBytes_congr (n : Nat) (m m' : Memory) (a : Nat)
    (h : ∀ b, a ≤ b → b < a + n → memGet m' b = memGet m b) : readBytes m' a n = readBytes m a n := by
  induction n generalizing a with
  | zero => rfl
  | succ n ih =>
    rw [readBytes, readBytes, h a (by omega) (by omega), ih (a + 1) fun b h1 h2 => h b (by omega) (by omega)]

theorem readBytes_writeBytes_same (n : Nat) (m : Memory) (a v : Nat) (h : Memory.wf m = true) :
    readBytes (writeBytes m a n v) a n = v % 256 ^ n := by
  induction n generalizing m a v with
  | zero => simp [readBytes, Nat.mod_one]
  | succ n ih =>
    rw [readBytes, writeBytes, memGet_writeBytes_outside _ _ _ _ _ (by omega), memGet_memSet_same _ _ _ h,
      ih _ _ _ (memSet_wf _ _ _ h), BitVec.toNat_ofNat, pow_succ' (256 : Nat), Nat.mod_mul]

theorem readBytes_lt (n : Nat) (m : Memory) (a : Nat) : readBytes m a n < 256 ^ n := by
  induction n generalizing a with
  | zero => simp [readBytes]
  | succ n ih =>
    have h1 := ih (a + 1)
    have h2 := (memGet m a).isLt
    rw [readBytes, Nat.pow_succ]
    omega

theorem fltBytes_width (f : Fmt) : 256 ^ fltBytes f = 2 ^ fltWidth f := by cases f <;> rfl

theorem fltWidth_le (f : Fmt) : 2 ^ fltWidth f ≤ 2 ^ 64 := by cases f <;> decide

/-- What a DMA read delivers is an encoding of the format. -/
theorem readFlt_lt (f : Fmt) (m : Memory) (a : Nat) : (readFlt f m a).toNat < 2 ^ fltWidth f := by
  have h := readBytes_lt (fltBytes f) m a
  rw [fltBytes_width] at h
  have h64 := fltWidth_le f
  rw [readFlt, BitVec.toNat_ofNat, Nat.mod_eq_of_lt (by omega)]
  exact h

/-- A value of the format read back from where it was stored. -/
theorem readFlt_writeFlt_same (f : Fmt) (m : Memory) (a : Nat) (v : Flt) (h : Memory.wf m = true)
    (hv : v.toNat < 2 ^ fltWidth f) : readFlt f (writeFlt f m a v) a = v := by
  apply BitVec.eq_of_toNat_eq
  rw [readFlt, writeFlt, readBytes_writeBytes_same _ _ _ _ h, fltBytes_width, Nat.mod_eq_of_lt hv, BitVec.toNat_ofNat,
    Nat.mod_eq_of_lt v.isLt]

/-- A value read from where a store did not reach. -/
theorem readFlt_writeFlt_outside (f : Fmt) (m : Memory) (a b : Nat) (v : Flt)
    (h : b + fltBytes f ≤ a ∨ a + fltBytes f ≤ b) : readFlt f (writeFlt f m a v) b = readFlt f m b := by
  rw [readFlt, readFlt, readBytes_congr _ m _ b fun c h1 h2 => memGet_writeFlt_outside f m a c v (by omega)]

end Sys2Proof.Machine
end

