-- ==== Sys2Proof/Laws/Engine.lean ====
section
/-! SUPPORT. What an engine may change: of its bank the arrays, head, PROG, DOUT, the error record and the counter; of
memory the bytes its command stores to. -/

namespace Sys2Proof.Machine

/-- Two banks agree on every register no engine writes (10_state.md R58). -/
structure SameRegs (b b' : Bank) : Prop where
  pend     : b'.pend = b.pend
  doneIe   : b'.doneIe = b.doneIe
  errIe    : b'.errIe = b.errIe
  done     : b'.done = b.done
  addr     : b'.addr = b.addr
  addr2    : b'.addr2 = b.addr2
  len      : b'.len = b.len
  len2     : b'.len2 = b.len2
  cidx     : b'.cidx = b.cidx
  hidx     : b'.hidx = b.hidx
  freqA    : b'.freqA = b.freqA
  freqB    : b'.freqB = b.freqB
  din      : b'.din = b.din
  stFreqA  : b'.stFreqA = b.stFreqA
  stFreqB  : b'.stFreqB = b.stFreqB
  stDin    : b'.stDin = b.stDin
  stCdata  : b'.stCdata = b.stCdata
  stHdata  : b'.stHdata = b.stHdata
  progSeen : b'.progSeen = b.progSeen

theorem SameRegs.rfl {b : Bank} : SameRegs b b := by constructor <;> exact Eq.refl _

theorem SameRegs.trans {a b c : Bank} (h : SameRegs a b) (k : SameRegs b c) : SameRegs a c := by
  constructor
  all_goals first
    | exact k.1.trans h.1 | exact k.2.trans h.2 | exact k.3.trans h.3 | exact k.4.trans h.4 | exact k.5.trans h.5
    | exact k.6.trans h.6 | exact k.7.trans h.7 | exact k.8.trans h.8 | exact k.9.trans h.9 | exact k.10.trans h.10
    | exact k.11.trans h.11 | exact k.12.trans h.12 | exact k.13.trans h.13 | exact k.14.trans h.14
    | exact k.15.trans h.15 | exact k.16.trans h.16 | exact k.17.trans h.17 | exact k.18.trans h.18
    | exact k.19.trans h.19

theorem sameRegs_busError (b : Bank) (a : Nat) : SameRegs b (b.busError a) := by constructor <;> simp

theorem sameRegs_setProg (b : Bank) (k : Nat) : SameRegs b (b.setProg k) := by constructor <;> simp

theorem sameRegs_useDraws (b : Bank) (k : Nat) : SameRegs b (b.useDraws k) := by constructor <;> simp

theorem sameRegs_stepFir (c : Params) (b : Bank) (x : Flt) : SameRegs b (stepFir c b x).1 := by constructor <;> exact Eq.refl _

theorem sameRegs_stepIir (c : Params) (b : Bank) (x : Flt) : SameRegs b (stepIir c b x).1 := by constructor <;> exact Eq.refl _

theorem sameRegs_windowSample (c : Params) (b : Bank) (x : Flt) (k : Nat) : SameRegs b (windowSample c b x k).1 := by
  constructor <;> exact Eq.refl _

/-- The processing loop keeps the registers if the sample step does, and touches no byte outside its elements. -/
theorem processLoop_frame (f : Fmt) (u : UnitId) (sample : Bank → Flt → Nat → Bank × Flt) (base : Nat)
    (fail : Option Nat) (hs : ∀ b x k, SameRegs b (sample b x k).1) (n k : Nat) (b : Bank) (m : Memory) :
    SameRegs b (processLoop f u sample base fail n k b m).1 ∧
    ∀ a, (a < elemAddr f base k ∨ elemAddr f base (k + n) ≤ a) →
      memGet (processLoop f u sample base fail n k b m).2 a = memGet m a := by
  induction n generalizing k b m with
  | zero => exact ⟨.rfl, fun _ _ => Eq.refl _⟩
  | succ n ih =>
    have step1 : elemAddr f base k + fltBytes f = elemAddr f base (k + 1) := by simp [elemAddr]; ring
    have mono : elemAddr f base (k + 1) ≤ elemAddr f base (k + (n + 1)) := by
      have h : k + 1 ≤ k + (n + 1) := by omega
      exact Nat.add_le_add_left (Nat.mul_le_mul_right _ h) _
    unfold processLoop
    dsimp only
    split
    · exact ⟨sameRegs_busError _ _, fun _ _ => Eq.refl _⟩
    · split
      · exact ⟨((hs _ _ _).trans (sameRegs_useDraws _ _)).trans (sameRegs_busError _ _), fun a ha =>
          memGet_writeFlt_outside _ _ _ _ _ (by omega)⟩
      · have hh := ih (k + 1) ((sample b (readFlt f m (elemAddr f base k)) k).1.setProg (k + 1))
          (writeFlt f m (elemAddr f base k) (sample b (readFlt f m (elemAddr f base k)) k).2)
        refine ⟨((hs _ _ _).trans (sameRegs_setProg _ _)).trans hh.1, fun a ha => ?_⟩
        have e : k + 1 + n = k + (n + 1) := by omega
        rw [hh.2 a (by rw [e]; omega), memGet_writeFlt_outside _ _ _ _ _ (by omega)]

/-- The write loop of GET_FACTORS keeps the registers and touches no byte outside its elements. -/
theorem storeLoop_frame (f : Fmt) (u : UnitId) (base : Nat) (fail : Option Nat) (vs : List Flt) (k : Nat) (b : Bank)
    (m : Memory) :
    SameRegs b (storeLoop f u base fail vs k b m).1 ∧
    ∀ a, (a < elemAddr f base k ∨ elemAddr f base (k + vs.length) ≤ a) →
      memGet (storeLoop f u base fail vs k b m).2 a = memGet m a := by
  induction vs generalizing k b m with
  | nil => exact ⟨.rfl, fun _ _ => Eq.refl _⟩
  | cons v vs ih =>
    have step1 : elemAddr f base k + fltBytes f = elemAddr f base (k + 1) := by simp [elemAddr]; ring
    have mono : elemAddr f base (k + 1) ≤ elemAddr f base (k + (vs.length + 1)) := by
      have h : k + 1 ≤ k + (vs.length + 1) := by omega
      exact Nat.add_le_add_left (Nat.mul_le_mul_right _ h) _
    unfold storeLoop
    dsimp only
    simp only [List.length_cons]
    split
    · exact ⟨(sameRegs_useDraws _ _).trans (sameRegs_busError _ _), fun a ha =>
        memGet_writeFlt_outside _ _ _ _ _ (by omega)⟩
    · have hh := ih (k + 1) (b.setProg (k + 1)) (writeFlt f m (elemAddr f base k) v)
      refine ⟨(sameRegs_setProg _ _).trans hh.1, fun a ha => ?_⟩
      have e : k + 1 + vs.length = k + (vs.length + 1) := by omega
      rw [hh.2 a (by rw [e]; omega), memGet_writeFlt_outside _ _ _ _ _ (by omega)]

theorem setFactors_frame (f : Fmt) (n : Nat) (p : Pend) (fail : Option Nat) (b : Bank) (m : Memory) :
    SameRegs b (setFactors f n p fail b m).1 ∧ (setFactors f n p fail b m).2 = m := by
  unfold setFactors
  split
  · split
    · exact ⟨(sameRegs_setProg _ _).trans (sameRegs_busError _ _), Eq.refl _⟩
    · exact ⟨by constructor <;> exact Eq.refl _, Eq.refl _⟩
  · exact ⟨by constructor <;> exact Eq.refl _, Eq.refl _⟩

/-- No engine writes a register of SameRegs (10_state.md R58). -/
theorem engineOf_sameRegs (i : Instr) (c : Params) (p : Pend) (fail : Option Nat) (b : Bank) (m : Memory) :
    SameRegs b (engineOf i c p fail b m).1 := by
  have set := fun n => (setFactors_frame c.fmt n p fail b m).1
  cases i
  case firProcess => exact (processLoop_frame _ _ _ _ _ (fun b x _ => sameRegs_stepFir c b x) _ _ _ _).1
  case iirProcess => exact (processLoop_frame _ _ _ _ _ (fun b x _ => sameRegs_stepIir c b x) _ _ _ _).1
  case winProcess => exact (processLoop_frame _ _ _ _ _ (sameRegs_windowSample c) _ _ _ _).1
  case firGetFactors => exact (storeLoop_frame _ _ _ _ _ _ _ _).1
  case iirGetFactors => exact (storeLoop_frame _ _ _ _ _ _ _ _).1
  case winGetFactors => exact (storeLoop_frame _ _ _ _ _ _ _ _).1
  case firSetFactors => exact set _
  case iirSetFactors => exact set _
  case winSetFactors => exact set _
  case iirSetCoeffs =>
    simp only [engineOf, engineIirSetCoeffs]
    split
    · split
      · exact (sameRegs_setProg _ _).trans (sameRegs_busError _ _)
      · constructor <;> exact Eq.refl _
    · constructor <;> exact Eq.refl _
  case winSetupHamming =>
    simp only [engineOf, engineWinSetupHamming, setupTable]; split <;> constructor <;> exact Eq.refl _
  case winSetupHann =>
    simp only [engineOf, engineWinSetupHann, setupTable]; split <;> constructor <;> exact Eq.refl _
  case winSetupBlackman =>
    simp only [engineOf, engineWinSetupBlackman, setupTable]; split <;> constructor <;> exact Eq.refl _
  all_goals (constructor <;> exact Eq.refl _)

/-- An engine stores only inside the written ranges of its record (20_memory.md R162). -/
theorem engineOf_mem (i : Instr) (c : Params) (p : Pend) (fail : Option Nat) (b : Bank) (m : Memory) (hi : p.op = i) (hc : checkOf i c p = none) (a : Nat)
   (ha : ¬ storesTo c p a) : memGet (engineOf i c p fail b m).2 a = memGet m a := by
  have set := fun n => (setFactors_frame c.fmt n p fail b m).2
  have buf : (i = .firProcess ∨ i = .iirProcess ∨ i = .winProcess ∨ i = .firGetFactors ∨ i = .iirGetFactors ∨ i = .winGetFactors) →
      (a < elemAddr c.fmt p.addr.toNat 0 ∨ elemAddr c.fmt p.addr.toNat p.len.toNat ≤ a) := by
    intro h
    by_contra hcon
    apply ha
    refine ⟨⟨p.addr.toNat, p.len.toNat * fltBytes c.fmt, true⟩, ?_, rfl, ?_⟩
    · unfold footprint; rw [hi]; rcases h with rfl | rfl | rfl | rfl | rfl | rfl <;> simp
    · simp [DmaRange.has, elemAddr] at *; omega
  have len : ∀ n, checkExact n c p = none → p.len.toNat = n := by
    intro n hn
    simp only [checkExact, checkBuffer] at hn
    split at hn <;> [cases hn; skip]
    split at hn <;> [cases hn; skip]
    split at hn <;> [cases hn; skip]
    next h => simpa using h
  cases i
  case firProcess => exact (processLoop_frame _ _ _ _ _ (fun b x _ => sameRegs_stepFir c b x) _ _ _ _).2 _ (by have := buf (by simp); rwa [Nat.zero_add])
  case iirProcess => exact (processLoop_frame _ _ _ _ _ (fun b x _ => sameRegs_stepIir c b x) _ _ _ _).2 _ (by have := buf (by simp); rwa [Nat.zero_add])
  case winProcess => exact (processLoop_frame _ _ _ _ _ (sameRegs_windowSample c) _ _ _ _).2 _ (by have := buf (by simp); rwa [Nat.zero_add])
  case firGetFactors => exact (storeLoop_frame _ _ _ _ _ _ _ _).2 _ (by have := buf (by simp); rw [len _ hc] at this; simpa [coefVector] using this)
  case iirGetFactors => exact (storeLoop_frame _ _ _ _ _ _ _ _).2 _ (by have := buf (by simp); rw [len _ hc] at this; simpa [coefVector] using this)
  case winGetFactors => exact (storeLoop_frame _ _ _ _ _ _ _ _).2 _ (by have := buf (by simp); rw [len _ hc] at this; simpa [coefVector] using this)
  case firSetFactors => simp only [engineOf, engineFirSetFactors, set]
  case iirSetFactors => simp only [engineOf, engineIirSetFactors, set]
  case winSetFactors => simp only [engineOf, engineWinSetFactors, set]
  case iirSetCoeffs =>
    simp only [engineOf, engineIirSetCoeffs]
    split
    · split <;> rfl
    · rfl
  all_goals rfl

theorem readVector_zero (f : Fmt) (m : Memory) (a : Nat) : readVector f m a 0 = [] := rfl

theorem readVector_succ (f : Fmt) (m : Memory) (a n : Nat) :
    readVector f m a (n + 1) = readFlt f m a :: readVector f m (a + fltBytes f) n := by
  simp only [readVector, List.range_succ_eq_map, List.map_cons, List.map_map]
  congr 1
  · simp [elemAddr]
  · apply List.map_congr_left; intro i _; simp [elemAddr]; congr 1; ring

theorem readVector_congr (f : Fmt) (m m' : Memory) (a n : Nat) (h : ∀ x, a ≤ x → x < a + n * fltBytes f → memGet m x = memGet m' x) :
    readVector f m a n = readVector f m' a n := by
  simp only [readVector]
  apply List.map_congr_left
  intro i hi
  simp at hi
  simp only [readFlt]
  congr 1
  apply readBytes_congr
  intro j hj hj2
  apply h
  · simp [elemAddr] at hj; omega
  · have : (i + 1) * fltBytes f ≤ n * fltBytes f := Nat.mul_le_mul_right _ hi
    simp only [elemAddr] at *
    have e : (i+1) * fltBytes f = i * fltBytes f + fltBytes f := by ring
    omega

/-- The processing loop without bus error is the single-sample step over the buffer's samples: the bank after them, the
outputs in the buffer, every other byte unchanged (40_common.md R242, R243). -/
theorem processLoop_stream (f : Fmt) (u : UnitId) (sample : Bank → Flt → Bank × Flt) (base : Nat)
    (hfit : ∀ b x, Fits f (sample b x).2)
    (hs : ∀ b x k, sample (b.setProg k) x = ((sample b x).1.setProg k, (sample b x).2))
    (n k : Nat) (b : Bank) (m : Memory) (hm : Memory.wf m = true) :
    ∃ m', processLoop f u (fun b x _ => sample b x) base none n k b m =
      ((if n = 0 then id else (fun c => Bank.setProg c (k + n))) (filterStream sample b (readVector f m (elemAddr f base k) n)).1, m') ∧
      readVector f m' (elemAddr f base k) n = (filterStream sample b (readVector f m (elemAddr f base k) n)).2 ∧
      Memory.wf m' = true ∧
      ∀ a, (a < elemAddr f base k ∨ elemAddr f base k + n * fltBytes f ≤ a) → memGet m' a = memGet m a := by
  induction n generalizing k b m with
  | zero => exact ⟨m, by simp [processLoop, readVector_zero, filterStream, hm]⟩
  | succ n ih =>
    have hst : ∀ (b : Bank) k xs, filterStream sample (b.setProg k) xs = ((filterStream sample b xs).1.setProg k, (filterStream sample b xs).2) := by
      intro b k xs
      induction xs generalizing b with
      | nil => rfl
      | cons x xs ih => simp [filterStream, hs, ih]
    have ea : elemAddr f base k + fltBytes f = elemAddr f base (k + 1) := by simp [elemAddr]; ring
    unfold processLoop
    simp only [reduceCtorEq, if_false]
    obtain ⟨m', h1, h2, h3, h4⟩ := ih (k + 1) ((sample b (readFlt f m (elemAddr f base k))).1.setProg (k + 1))
      (writeFlt f m (elemAddr f base k) (sample b (readFlt f m (elemAddr f base k))).2) (writeFlt_wf _ _ _ _ hm)
    have hv : readVector f (writeFlt f m (elemAddr f base k) (sample b (readFlt f m (elemAddr f base k))).2) (elemAddr f base (k + 1)) n
        = readVector f m (elemAddr f base (k + 1)) n := by
      apply readVector_congr
      intro x hx _
      rw [memGet_writeFlt_outside]; omega
    rw [hv, hst] at h1 h2
    refine ⟨m', ?_, ?_, h3, ?_⟩
    · rw [h1, readVector_succ, ea]
      simp only [filterStream]
      split
      · subst_vars; simp [readVector_zero, filterStream]
      · have e : k + 1 + n = k + (n + 1) := by omega
        simp [e, Bank.setProg]
    · rw [readVector_succ, readVector_succ, ea, h2]
      simp only [filterStream]
      congr 1
      have : readFlt f m' (elemAddr f base k) = readFlt f (writeFlt f m (elemAddr f base k) (sample b (readFlt f m (elemAddr f base k))).2) (elemAddr f base k) := by
        simp only [readFlt]; congr 1
        apply readBytes_congr
        intro j hj hj2
        exact h4 j (Or.inl (by omega))
      rw [this, readFlt_writeFlt_same _ _ _ _ hm (hfit _ _)]
    · intro a ha
      have : (n + 1) * fltBytes f = n * fltBytes f + fltBytes f := by ring
      rw [h4 a (by omega), memGet_writeFlt_outside _ _ _ _ _ (by omega)]

/-- The PROG a processing loop leaves depends on PROG before it, the bus error and the element count, not on the data. -/
theorem processLoop_prog (f : Fmt) (u : UnitId) (sample : Bank → Flt → Nat → Bank × Flt) (base : Nat) (fail : Option Nat)
    (hs : ∀ b x k, (sample b x k).1.prog = b.prog) (n k : Nat) (b b' : Bank) (m m' : Memory) (h : b.prog = b'.prog) :
    (processLoop f u sample base fail n k b m).1.prog = (processLoop f u sample base fail n k b' m').1.prog := by
  induction n generalizing k b b' m m' with
  | zero => exact h
  | succ n ih =>
    unfold processLoop
    dsimp only
    split
    · simp [h]
    · split
      · simp [hs, h]
      · exact ih _ _ _ _ _ (by simp)

theorem storeLoop_prog (f : Fmt) (u : UnitId) (base : Nat) (fail : Option Nat) (vs vs' : List Flt)
    (hv : vs.length = vs'.length) (k : Nat) (b b' : Bank) (m m' : Memory) (h : b.prog = b'.prog) :
    (storeLoop f u base fail vs k b m).1.prog = (storeLoop f u base fail vs' k b' m').1.prog := by
  induction vs generalizing vs' k b b' m m' with
  | nil => cases vs' with
    | nil => exact h
    | cons => cases hv
  | cons v vs ih => cases vs' with
    | nil => cases hv
    | cons v' vs' =>
      unfold storeLoop
      dsimp only
      split
      · simp [h]
      · exact ih _ (by simpa using hv) _ _ _ _ _ (by simp)

/-- The PROG a command leaves depends on its record, the bus error and PROG before it: on no coefficient, history or byte
of memory. So what other agents do while it is in flight does not move the bound of R562. -/
theorem engineOf_prog (i : Instr) (c : Params) (p : Pend) (fail : Option Nat) (b b' : Bank) (m m' : Memory)
    (h : b.prog = b'.prog) : (engineOf i c p fail b m).1.prog = (engineOf i c p fail b' m').1.prog := by
  have set : ∀ n, (setFactors c.fmt n p fail b m).1.prog = (setFactors c.fmt n p fail b' m').1.prog := by
    intro n; unfold setFactors; split
    · split <;> simp
    · simp
  have get : ∀ u n, (getFactors c.fmt u n p fail b m).1.prog = (getFactors c.fmt u n p fail b' m').1.prog :=
    fun u n => storeLoop_prog _ _ _ _ _ _ (by simp [coefVector]) _ _ _ _ _ h
  cases i
  case firProcess => exact processLoop_prog _ _ _ _ _ (fun _ _ _ => rfl) _ _ _ _ _ _ h
  case iirProcess => exact processLoop_prog _ _ _ _ _ (fun _ _ _ => rfl) _ _ _ _ _ _ h
  case winProcess => exact processLoop_prog _ _ _ _ _ (fun _ _ _ => rfl) _ _ _ _ _ _ h
  case firGetFactors => exact get _ _
  case iirGetFactors => exact get _ _
  case winGetFactors => exact get _ _
  case firSetFactors => exact set _
  case iirSetFactors => exact set _
  case winSetFactors => exact set _
  case iirSetCoeffs =>
    simp only [engineOf, engineIirSetCoeffs, loadCoeffs]
    split
    · split <;> simp
    · simp
  case winSetupHamming => simp only [engineOf, engineWinSetupHamming, setupTable]; split <;> exact h
  case winSetupHann => simp only [engineOf, engineWinSetupHann, setupTable]; split <;> exact h
  case winSetupBlackman => simp only [engineOf, engineWinSetupBlackman, setupTable]; split <;> exact h
  all_goals exact h

end Sys2Proof.Machine
end

