-- ==== Sys2Proof/Laws/Float.lean ====
section
/-! SUPPORT. The encodings' small laws: what packing a sign and a magnitude gives, that every operation delivers an encoding
of the format, and what changing the sign does. -/

namespace Sys2Proof.Machine

theorem signWeight_pos (f : Fmt) : 0 < signWeight f := by cases f <;> decide
theorem two_signWeight (f : Fmt) : 2 * signWeight f = 2 ^ fltWidth f := by cases f <;> decide
theorem infMag_lt (f : Fmt) : infMag f < signWeight f := by cases f <;> decide
theorem two_signWeight_le (f : Fmt) : 2 * signWeight f ≤ 2 ^ 64 := by cases f <;> decide

theorem packFlt_toNat (f : Fmt) (n : Bool) (m : Nat) (h : m < signWeight f) :
    (packFlt f n m).toNat = (if n then signWeight f else 0) + m := by
  unfold packFlt
  rw [BitVec.toNat_ofNat, Nat.mod_eq_of_lt]
  have := two_signWeight_le f
  split <;> omega

theorem fltMag_packFlt (f : Fmt) (n : Bool) (m : Nat) (h : m < signWeight f) : fltMag f (packFlt f n m) = m := by
  rw [fltMag, packFlt_toNat f n m h]; cases n
  · simp [Nat.mod_eq_of_lt h]
  · simp [Nat.mod_eq_of_lt h]

theorem fltNeg_packFlt (f : Fmt) (n : Bool) (m : Nat) (h : m < signWeight f) : fltNeg f (packFlt f n m) = n := by
  have hp := signWeight_pos f
  rw [fltNeg, packFlt_toNat f n m h]; cases n
  · simp [Nat.div_eq_of_lt h]
  · simp [Nat.add_div_left, hp, Nat.div_eq_of_lt h]

theorem packFlt_fits (f : Fmt) (n : Bool) (m : Nat) (h : m < signWeight f) : Fits f (packFlt f n m) := by
  rw [Fits, packFlt_toNat f n m h, ← two_signWeight]; split <;> omega

theorem fltMag_lt (f : Fmt) (x : Flt) : fltMag f x < signWeight f := Nat.mod_lt _ (signWeight_pos f)

theorem packFlt_eta (f : Fmt) (x : Flt) (h : Fits f x) : packFlt f (fltNeg f x) (fltMag f x) = x := by
  apply BitVec.eq_of_toNat_eq
  rw [packFlt_toNat _ _ _ (fltMag_lt f x)]
  rw [Fits, ← two_signWeight] at h
  have hp := signWeight_pos f
  have hd : x.toNat / signWeight f < 2 := by rw [Nat.div_lt_iff_lt_mul hp]; exact h
  have := Nat.div_add_mod x.toNat (signWeight f)
  simp only [fltNeg, fltMag, decide_eq_true_eq]
  generalize x.toNat / signWeight f = q at *
  interval_cases q <;> simp at * <;> omega

theorem roundMag_le (f : Fmt) (n d : Nat) : roundMag f n d ≤ infMag f := Nat.min_le_left _ _
theorem roundMag_lt (f : Fmt) (n d : Nat) : roundMag f n d < signWeight f := Nat.lt_of_le_of_lt (roundMag_le f n d) (infMag_lt f)

theorem quiet_lt (f : Fmt) (q : BitVec 64) : infMag f + 2 ^ (fracBits f - 1) + q.toNat % 2 ^ (fracBits f - 1) < signWeight f := by
  have := Nat.mod_lt q.toNat (show 2 ^ (fracBits f - 1) > 0 by positivity)
  cases f <;> simp only [infMag, fracBits, expBits, signWeight, fltWidth] at * <;> omega

theorem isNaN_quietNaN (f : Fmt) (q : BitVec 64) : isNaN f (quietNaN f q) = true := by
  unfold isNaN quietNaN
  rw [fltMag_packFlt _ _ _ (quiet_lt f q)]
  have : 2 ^ (fracBits f - 1) > 0 := by positivity
  simp; omega

theorem fltMag_fneg (f : Fmt) (x : Flt) : fltMag f (fneg f x) = fltMag f x := fltMag_packFlt _ _ _ (fltMag_lt f x)
theorem fltNeg_fneg (f : Fmt) (x : Flt) : fltNeg f (fneg f x) = !fltNeg f x := fltNeg_packFlt _ _ _ (fltMag_lt f x)
theorem isNaN_fneg (f : Fmt) (x : Flt) : isNaN f (fneg f x) = isNaN f x := by simp [isNaN, fltMag_fneg]
theorem isInf_fneg (f : Fmt) (x : Flt) : isInf f (fneg f x) = isInf f x := by simp [isInf, fltMag_fneg]
theorem signedUnits_fneg (f : Fmt) (x : Flt) : signedUnits f (fneg f x) = - signedUnits f x := by
  simp only [signedUnits, fltUnits, fltMag_fneg, fltNeg_fneg]; cases fltNeg f x <;> simp

theorem not_nan_inf_of_finite (f : Fmt) (x : Flt) (h : isFinite f x = true) : isNaN f x = false ∧ isInf f x = false := by
  simp only [isFinite, isNaN, isInf, decide_eq_true_eq, decide_eq_false_iff_not] at *; omega

theorem isNaN_packFlt (f : Fmt) (n : Bool) (m : Nat) (h : m ≤ infMag f) : isNaN f (packFlt f n m) = false := by
  have := infMag_lt f
  simp [isNaN, fltMag_packFlt f n m (by omega), h]


/-- A NaN result is an encoding of the format. -/
theorem quietNaN_fits (f : Fmt) (q : BitVec 64) : Fits f (quietNaN f q) := packFlt_fits _ _ _ (quiet_lt f q)

theorem roundSum_fits (f : Fmt) (n : Bool) (x : Int) : Fits f (roundSum f n x) := by
  unfold roundSum
  split
  · exact packFlt_fits _ _ _ (signWeight_pos f)
  · exact packFlt_fits _ _ _ (roundMag_lt _ _ _)

/-- Every operation delivers an encoding of the format (00_scope.md R17, R18). -/
theorem fadd_fits (f : Fmt) (q : BitVec 64) (a b : Flt) : Fits f (fadd f q a b) := by
  unfold fadd
  repeat' split
  all_goals first
    | exact quietNaN_fits f q
    | exact packFlt_fits _ _ _ (infMag_lt f)
    | exact roundSum_fits _ _ _

theorem fsub_fits (f : Fmt) (q : BitVec 64) (a b : Flt) : Fits f (fsub f q a b) := fadd_fits _ _ _ _

theorem fmul_fits (f : Fmt) (q : BitVec 64) (a b : Flt) : Fits f (fmul f q a b) := by
  unfold fmul
  repeat' split
  all_goals first
    | exact quietNaN_fits f q
    | exact packFlt_fits _ _ _ (infMag_lt f)
    | exact packFlt_fits _ _ _ (roundMag_lt _ _ _)

theorem fdiv_fits (f : Fmt) (q : BitVec 64) (a b : Flt) : Fits f (fdiv f q a b) := by
  unfold fdiv
  repeat' split
  all_goals first
    | exact quietNaN_fits f q
    | exact packFlt_fits _ _ _ (infMag_lt f)
    | exact packFlt_fits _ _ _ (signWeight_pos f)
    | exact packFlt_fits _ _ _ (roundMag_lt _ _ _)

theorem fneg_fits (f : Fmt) (a : Flt) : Fits f (fneg f a) := packFlt_fits _ _ _ (fltMag_lt f a)

theorem fltZero_fits (f : Fmt) : Fits f fltZero := by cases f <;> (unfold Fits; decide)

theorem fltOne_fits (f : Fmt) : Fits f (fltOne f) := by cases f <;> (unfold Fits; decide)

theorem accumulate_fits (f : Fmt) (q : Nat → BitVec 64) (t : Nat → Flt) (n : Nat) : Fits f (accumulate f q t n) := by
  cases n with
  | zero => exact fltZero_fits f
  | succ n => exact fadd_fits _ _ _ _

theorem stepFir_fits (c : Params) (b : Bank) (x : Flt) : Fits c.fmt (stepFir c b x).2 := accumulate_fits _ _ _ _

theorem stepIir_fits (c : Params) (b : Bank) (x : Flt) : Fits c.fmt (stepIir c b x).2 := fsub_fits _ _ _ _

end Sys2Proof.Machine
end

