-- ==== Sys2Proof/Laws/PerInstr.lean ====
section
/-! SUPPORT. Per-command facts about encoding: the word of every command decodes to it in its own unit. -/

namespace Sys2Proof.Laws.RoundTrip

/-- The encoder's word of a command decodes, in its unit, to that command; to ILLEGAL for a design command without the
design sequencer (30_encoding.md R184, R186, R187). -/
def Statement (i : Instr) : Prop :=
  ∀ hasDesign : Bool,
    decode hasDesign i.unit (encode i) =
      if i.isDesign && !hasDesign then .illegal .designAbsent else .command i

theorem firProcess : Statement .firProcess := by unfold Statement; decide
theorem firProcess1 : Statement .firProcess1 := by unfold Statement; decide
theorem firReset : Statement .firReset := by unfold Statement; decide
theorem firSetFactors : Statement .firSetFactors := by unfold Statement; decide
theorem firGetFactors : Statement .firGetFactors := by unfold Statement; decide
theorem firDesignLowpass : Statement .firDesignLowpass := by unfold Statement; decide
theorem firDesignHighpass : Statement .firDesignHighpass := by unfold Statement; decide
theorem firDesignBandpass : Statement .firDesignBandpass := by unfold Statement; decide
theorem iirProcess : Statement .iirProcess := by unfold Statement; decide
theorem iirProcess1 : Statement .iirProcess1 := by unfold Statement; decide
theorem iirReset : Statement .iirReset := by unfold Statement; decide
theorem iirSetFactors : Statement .iirSetFactors := by unfold Statement; decide
theorem iirGetFactors : Statement .iirGetFactors := by unfold Statement; decide
theorem iirSetCoeffs : Statement .iirSetCoeffs := by unfold Statement; decide
theorem winProcess : Statement .winProcess := by unfold Statement; decide
theorem winSetFactors : Statement .winSetFactors := by unfold Statement; decide
theorem winGetFactors : Statement .winGetFactors := by unfold Statement; decide
theorem winSetupRect : Statement .winSetupRect := by unfold Statement; decide
theorem winSetupHamming : Statement .winSetupHamming := by unfold Statement; decide
theorem winSetupHann : Statement .winSetupHann := by unfold Statement; decide
theorem winSetupBlackman : Statement .winSetupBlackman := by unfold Statement; decide

end Sys2Proof.Laws.RoundTrip
end

