-- ==== Sys2Proof/Tests/Slice0.lean ====
section
/-! SUPPORT. The model's own tests: ill-formed terms refused, words written out from the encoding tables, one step per
command against the vectors of 95_test_vectors.md, and a witness for the hypotheses of every obligation that has some. -/

namespace Sys2Proof.Tests

-- The kernel checks below run one after another: many at once exhaust the threads of the one-file compile.
set_option Elab.async false

open Sys2Proof Sys2Proof.Machine

/-! ### WellFormed refuses each ill-formed term (00_scope.md R10, 30_encoding.md R186) -/

theorem test_wf_default : Params.default.legal = true := by decide
theorem test_wf_firSize_zero : { Params.default with firSize := 0 }.legal = false := by decide
theorem test_wf_firSize_large : { Params.default with firSize := 65537 }.legal = false := by decide
theorem test_wf_numB_zero : { Params.default with numB := 0 }.legal = false := by decide
theorem test_wf_numA_large : { Params.default with numB := 1, numA := 65536 }.legal = false := by decide
theorem test_wf_winSize_zero : { Params.default with winSize := 0 }.legal = false := by decide
theorem test_wf_winSize_large : { Params.default with winSize := 65537 }.legal = false := by decide
theorem test_wf_base_unaligned : { Params.default with blockBase := 0x40000200 }.legal = false := by decide
theorem test_wf_design_absent : Instr.firDesignLowpass.wf { Params.default with hasDesign := false } = false := by decide

/-! ### Decoding: words written out bit by bit from 30_encoding.md R180, R184 -/

theorem test_decode_firProcess : decode true .fir 0b00000000000000000000000000000001#32 = .command .firProcess := by decide
theorem test_decode_firProcess1 : decode true .fir 0b00000000000000000000000000000010#32 = .command .firProcess1 := by decide
theorem test_decode_firReset : decode true .fir 0b00000000000000000000000000000011#32 = .command .firReset := by decide
theorem test_decode_firSetFactors : decode true .fir 0b00000000000000000000000000000100#32 = .command .firSetFactors := by decide
theorem test_decode_firGetFactors : decode true .fir 0b00000000000000000000000000000101#32 = .command .firGetFactors := by decide
theorem test_decode_firDesignLowpass : decode true .fir 0b00000000000000000000000000010000#32 = .command .firDesignLowpass := by decide
theorem test_decode_firDesignHighpass : decode true .fir 0b00000000000000000000000000010001#32 = .command .firDesignHighpass := by decide
theorem test_decode_firDesignBandpass : decode true .fir 0b00000000000000000000000000010010#32 = .command .firDesignBandpass := by decide
theorem test_decode_iirProcess : decode true .iir 0b00000000000000000000000000000001#32 = .command .iirProcess := by decide
theorem test_decode_iirProcess1 : decode true .iir 0b00000000000000000000000000000010#32 = .command .iirProcess1 := by decide
theorem test_decode_iirReset : decode true .iir 0b00000000000000000000000000000011#32 = .command .iirReset := by decide
theorem test_decode_iirSetFactors : decode true .iir 0b00000000000000000000000000000100#32 = .command .iirSetFactors := by decide
theorem test_decode_iirGetFactors : decode true .iir 0b00000000000000000000000000000101#32 = .command .iirGetFactors := by decide
theorem test_decode_iirSetCoeffs : decode true .iir 0b00000000000000000000000000000110#32 = .command .iirSetCoeffs := by decide
theorem test_decode_winProcess : decode true .win 0b00000000000000000000000000000001#32 = .command .winProcess := by decide
theorem test_decode_winSetFactors : decode true .win 0b00000000000000000000000000000100#32 = .command .winSetFactors := by decide
theorem test_decode_winGetFactors : decode true .win 0b00000000000000000000000000000101#32 = .command .winGetFactors := by decide
theorem test_decode_winSetupRect : decode true .win 0b00000000000000000000000000100000#32 = .command .winSetupRect := by decide
theorem test_decode_winSetupHamming : decode true .win 0b00000000000000000000000000100001#32 = .command .winSetupHamming := by decide
theorem test_decode_winSetupHann : decode true .win 0b00000000000000000000000000100010#32 = .command .winSetupHann := by decide
theorem test_decode_winSetupBlackman : decode true .win 0b00000000000000000000000000100011#32 = .command .winSetupBlackman := by decide

/-- The ILLEGAL words of V-E1. -/
theorem test_decode_illegal :
    decode true .fir 0#32 = .illegal .unassigned ∧ decode true .win 0x00000024#32 = .illegal .unassigned ∧
    decode true .iir 0x000000FF#32 = .illegal .unassigned ∧ decode true .fir 0x00000006#32 = .illegal .notOfThisUnit ∧
    decode true .win 0x00000002#32 = .illegal .notOfThisUnit ∧ decode true .iir 0x00000010#32 = .illegal .notOfThisUnit ∧
    decode false .fir 0x00000010#32 = .illegal .designAbsent ∧ decode true .fir 0x00000101#32 = .illegal .reservedBits ∧
    decode true .win 0x80000001#32 = .illegal .reservedBits := by decide

/-- The host's table word (log 15). -/
theorem test_tableWord :
    decodeTableWord 32 0x01 = some .firProcess ∧ decodeTableWord 32 0x06 = some .iirSetCoeffs ∧
    decodeTableWord 32 0x23 = some .winSetupBlackman ∧ decodeTableWord 32 0x07 = none ∧
    decodeTableWord 32 0x101 = none ∧ decodeTableWord 32 (2 ^ 32 + 1) = none := by decide

/-! ### Small states and readings -/

/-- The reset state with one bank edited. -/
def edit (u : UnitId) (g : Bank → Bank) (s : State) : State := s.setBank u (g (s.bank u))

/-- The reset state of the binary32 test instance with a FIR bank of V-S1. -/
def firState (g : Bank → Bank) : State :=
  edit .fir (fun b => g { b with coef := [0x3F000000#64, 0x3E800000#64, 0xBE000000#64] }) State.reset

/-- Words in memory from an address on, four bytes each, little-endian. -/
def mem32 (a : Nat) (ws : List Nat) : Memory :=
  (ws.zipIdx).foldl (fun m p => writeBytes m (a + 4 * p.2) 4 p.1) []

/-- A reading of the next state, none where there is no next state. -/
def reading {α : Type} (o : Host.Outcome State Fault Refusal) (g : State → α) : Option α :=
  match o with
  | .next t => some (g t)
  | .fault _ => none
  | .refused _ => none

/-- Four-byte words of the next state's memory. -/
def words (a n : Nat) (s : State) : List Nat := (List.range n).map (fun i => readBytes s.mem (a + 4 * i) 4)

/-! ### One step per command -/

/-- V-S1: the impulse response. -/
theorem test_firProcess_impulse :
    reading (exec .firProcess ((firState fun b => { b with addr := 0x1000#32, len := 4#32 }).withMem
        (mem32 0x1000 [0x3F800000, 0, 0, 0])))
      (fun t => (words 0x1000 4 t, t.fir.head, t.fir.prog)) =
    some ([0x3F000000, 0x3E800000, 0xBE000000, 0], 1, 4#32) := by decide +kernel

/-- V-C3: the read of 0x1008 fails. -/
theorem test_firProcess_busError :
    reading (exec .firProcess (((firState fun b => { b with addr := 0x1000#32, len := 4#32 }).withMem
        (mem32 0x1000 [0x3F800000, 0x40000000, 0x40400000, 0x40800000])).withSched [.engine .fir (some 4)]))
      (fun t => (words 0x1000 4 t, t.fir.hist, t.fir.head, t.fir.prog, t.fir.errAddr, statusWord t.fir)) =
    some ([0x3F000000, 0x3FA00000, 0x40400000, 0x40800000], [0x3F800000#64, 0x40000000#64, 0#64], 2, 2#32, 0x1008#32,
      0x3306#32) := by decide +kernel

/-- V-F1: the PROCESS1 after the ramp. -/
theorem test_firProcess1_ramp :
    reading (exec .firProcess1 (firState fun b =>
        { b with hist := [0x40800000#64, 0x40000000#64, 0x40400000#64], head := 1, din := 0x40A00000#64 }))
      (fun t => (t.fir.dout, t.fir.hist, t.fir.head)) =
    some (0x40480000#64, [0x40800000#64, 0x40A00000#64, 0x40400000#64], 2) := by decide +kernel

/-- V-F8: overflow to infinity. -/
theorem test_firProcess1_overflow :
    reading (exec .firProcess1 (firState fun b =>
        { b with coef := [0x3F800000#64, 0x3F800000#64, 0#64], hist := [0x7F000000#64, 0#64, 0#64], head := 1,
                 din := 0x7F000000#64 }))
      (fun t => t.fir.dout) = some 0x7F800000#64 := by decide +kernel

/-- V-F9. -/
theorem test_firReset :
    reading (exec .firReset (firState fun b =>
        { b with hist := [0x40800000#64, 0x40A00000#64, 0x40400000#64], head := 2, dout := 0x40480000#64 }))
      (fun t => (t.fir.hist, t.fir.head, t.fir.coef, t.fir.dout)) =
    some ([0#64, 0#64, 0#64], 0, [0x3F000000#64, 0x3E800000#64, 0xBE000000#64], 0x40480000#64) := by decide +kernel

/-- V-C2: a signalling NaN pattern is copied bit for bit. -/
theorem test_firSetFactors :
    reading (exec .firSetFactors ((firState fun b => { b with addr := 0x1000#32, len := 3#32 }).withMem
        (mem32 0x1000 [0x3F000000, 0x7FA00001, 0xBE000000])))
      (fun t => (t.fir.coef, t.fir.prog, statusWord t.fir)) =
    some ([0x3F000000#64, 0x7FA00001#64, 0xBE000000#64], 3#32, 2#32) := by decide +kernel

/-- V-C3: the read of 0x1004 fails. -/
theorem test_firSetFactors_busError :
    reading (exec .firSetFactors ((firState fun b => { b with addr := 0x1000#32, len := 3#32 }).withSched
        [.engine .fir (some 1)]))
      (fun t => (t.fir.coef, t.fir.prog, t.fir.errAddr, statusWord t.fir)) =
    some ([0x3F000000#64, 0x3E800000#64, 0xBE000000#64], 1#32, 0x1004#32, 0x3306#32) := by decide +kernel

/-- V-C2: the bytes of GET_FACTORS. -/
theorem test_firGetFactors :
    reading (exec .firGetFactors (firState fun b => { b with addr := 0x2000#32, len := 3#32 }))
      (fun t => ((List.range 12).map (fun i => memGet t.mem (0x2000 + i)), t.fir.prog)) =
    some ([0x00#8, 0x00#8, 0x00#8, 0x3F#8, 0x00#8, 0x00#8, 0x80#8, 0x3E#8, 0x00#8, 0x00#8, 0x00#8, 0xBE#8], 3#32) := by
  decide +kernel

/-- The test instance with one FIR tap. -/
def oneTap (a b : Flt) : State :=
  edit .fir (fun r => { r with freqA := a, freqB := b }) (State.resetOf { Params.default with firSize := 1 })

/-- V-D1, whatever SIN is. -/
theorem test_firDesignLowpass_oneTap :
    reading (exec .firDesignLowpass (oneTap 0x3E800000#64 0#64)) (fun t => t.fir.coef) = some [0x3F800000#64] := by
  decide +kernel

/-- V-D7: a cutoff of one half is rejected. -/
theorem test_firDesignLowpass_half :
    reading (exec .firDesignLowpass (oneTap 0x3F000000#64 0#64)) (fun t => (t.fir.coef, statusWord t.fir)) =
      some ([0#64], 0x1406#32) := by decide +kernel

/-- V-D1. -/
theorem test_firDesignHighpass_oneTap :
    reading (exec .firDesignHighpass (oneTap 0x3E800000#64 0#64)) (fun t => t.fir.coef) = some [0#64] := by
  decide +kernel

/-- V-D1, and V-S4 for equal cutoffs. -/
theorem test_firDesignBandpass_oneTap :
    reading (exec .firDesignBandpass (oneTap 0x3DCCCCCD#64 0x3E800000#64)) (fun t => t.fir.coef) = some [0#64] ∧
    reading (exec .firDesignBandpass (oneTap 0x3E800000#64 0x3E800000#64)) (fun t => statusWord t.fir) =
      some 0x1506#32 := by
  decide +kernel

/-- The reset state of the test instance with the IIR coefficients of P2. -/
def iirState (g : Bank → Bank) : State :=
  edit .iir (fun b => g { b with coef := [0x3F800000#64, 0#64, 0#64, 0xBF000000#64, 0#64] }) State.reset

/-- V-I1, as in P2 line 16: [1, 0.5, 0.25, 0.125]. -/
theorem test_iirProcess_decay :
    reading (exec .iirProcess ((iirState fun b => { b with addr := 0x3200#32, len := 4#32 }).withMem
        (mem32 0x3200 [0x3F800000, 0, 0, 0])))
      (fun t => (words 0x3200 4 t, t.iir.prog)) =
    some ([0x3F800000, 0x3F000000, 0x3E800000, 0x3E000000], 4#32) := by decide +kernel

/-- V-I8: the signed zero. -/
theorem test_iirProcess1_negativeZero :
    reading (exec .iirProcess1 (iirState fun b => { b with din := 0x80000000#64 }))
      (fun t => (t.iir.dout, t.iir.hist)) =
    some (0#64, [0x80000000#64, 0#64, 0#64, 0#64, 0#64]) := by decide +kernel

/-- V-I9: history and coefficients both zero. -/
theorem test_iirReset :
    reading (exec .iirReset (iirState fun b => { b with hist := List.replicate 5 0x3F800000#64, dout := 0x40400000#64 }))
      (fun t => (t.iir.hist, t.iir.coef, t.iir.dout)) =
    some (List.replicate 5 0#64, List.replicate 5 0#64, 0x40400000#64) := by decide +kernel

/-- The combined vector, b then a (40_common.md R260). -/
theorem test_iirSetFactors :
    reading (exec .iirSetFactors ((iirState fun b => { b with addr := 0x3000#32, len := 5#32 }).withMem
        (mem32 0x3000 [1, 2, 3, 4, 5])))
      (fun t => (t.iir.coef, t.iir.prog)) = some ([1#64, 2#64, 3#64, 4#64, 5#64], 5#32) := by decide +kernel

/-- A count other than NC is rejected (40_common.md R241). -/
theorem test_iirGetFactors :
    reading (exec .iirGetFactors (iirState fun b => { b with addr := 0x3000#32, len := 5#32 })) (words 0x3000 5) =
      some [0x3F800000, 0, 0, 0xBF000000, 0] ∧
    reading (exec .iirGetFactors (iirState fun b => { b with addr := 0x3000#32, len := 3#32 }))
      (fun t => statusWord t.iir) = some 0x1306#32 := by decide +kernel

/-- P2 line 9: both halves. -/
theorem test_iirSetCoeffs :
    reading (exec .iirSetCoeffs ((edit .iir (fun b =>
        { b with addr := 0x3000#32, len := 3#32, addr2 := 0x3100#32, len2 := 2#32 }) State.reset).withMem
        (mem32 0x3000 [0x3F800000, 0, 0] ++ mem32 0x3100 [0xBF000000, 0])))
      (fun t => (t.iir.coef, t.iir.prog)) =
    some ([0x3F800000#64, 0#64, 0#64, 0xBF000000#64, 0#64], 5#32) := by decide +kernel

/-- V-C3: the read of 0x3104 fails. -/
theorem test_iirSetCoeffs_busError :
    reading (exec .iirSetCoeffs ((edit .iir (fun b =>
        { b with addr := 0x3000#32, len := 3#32, addr2 := 0x3100#32, len2 := 2#32 }) State.reset).withSched
        [.engine .iir (some 4)]))
      (fun t => (t.iir.coef, t.iir.prog, t.iir.errAddr)) =
    some (List.replicate 5 0#64, 4#32, 0x3104#32) := by decide +kernel

/-- The reset state of the test instance with a WIN bank edited. -/
def winState (g : Bank → Bank) : State := edit .win g State.reset

/-- V-W4. -/
theorem test_winProcess_hann :
    reading (exec .winProcess ((winState fun b =>
        { b with coef := [0#64, 0x3F000000#64, 0x3F800000#64, 0x3F000000#64, 0#64], addr := 0x5000#32, len := 5#32 }).withMem
        (mem32 0x5000 (List.replicate 5 0x40000000))))
      (fun t => (words 0x5000 5 t, t.win.prog)) =
    some ([0, 0x3F800000, 0x40000000, 0x3F800000, 0], 5#32) := by decide +kernel

/-- V-S7: a short length. -/
theorem test_winProcess_short :
    reading (exec .winProcess (winState fun b => { b with addr := 0x5000#32, len := 4#32 }))
      (fun t => statusWord t.win) = some 0x1306#32 := by decide +kernel

/-- V-W3's coefficient vector, at WIN_SIZE = 1. -/
theorem test_winSetFactors :
    reading (exec .winSetFactors (edit .win (fun b => { b with addr := 0x1000#32, len := 1#32 })
        ((State.resetOf { Params.default with winSize := 1 }).withMem (mem32 0x1000 [0x40000000]))))
      (fun t => t.win.coef) = some [0x40000000#64] := by decide +kernel

/-- The reset coefficients ONE read back (44_window.md R473). -/
theorem test_winGetFactors :
    reading (exec .winGetFactors (winState fun b => { b with addr := 0x5000#32, len := 5#32 })) (words 0x5000 5) =
      some (List.replicate 5 0x3F800000) := by decide +kernel

/-- V-W3: SETUP_RECT acts at WIN_SIZE = 1, SETUP_BLACKMAN does not. -/
theorem test_winSetup_oneEntry :
    reading (exec .winSetupRect (edit .win (fun b => { b with coef := [0x40000000#64] })
        (State.resetOf { Params.default with winSize := 1 }))) (fun t => t.win.coef) = some [0x3F800000#64] ∧
    reading (exec .winSetupBlackman (edit .win (fun b => { b with coef := [0x40000000#64] })
        (State.resetOf { Params.default with winSize := 1 }))) (fun t => (t.win.coef, t.win.done)) =
      some ([0x40000000#64], true) := by decide +kernel

/-- V-W1, Hamming with N = 5. -/
theorem test_winSetupHamming :
    reading (exec .winSetupHamming State.reset) (fun t => t.win.coef) =
      some [0x3DA3D70A#64, 0x3F0A3D71#64, 0x3F800000#64, 0x3F0A3D71#64, 0x3DA3D70A#64] := by decide +kernel

/-- V-W2, Hann with N = 8, binary32. -/
theorem test_winSetupHann :
    reading (exec .winSetupHann (State.resetOf { Params.default with winSize := 8 })) (fun t => t.win.coef.take 4) =
      some [0#64, 0x3E40C5F2#64, 0x3F1C7B91#64, 0x3F7352F3#64] := by decide +kernel

/-- V-W2, Blackman with N = 8, binary64. -/
theorem test_winSetupBlackman :
    reading (exec .winSetupBlackman (State.resetOf { Params.default with winSize := 8, fmt := .b64 }))
      (fun t => t.win.coef.take 4) =
    some [0#64, 0x3FB727F4A3698549#64, 0x3FDD6340EA629711#64, 0x3FED739E67055AD9#64] := by decide +kernel

/-! ### Registers and the host's accesses -/

/-- V-E3 for binary64. -/
theorem test_identification :
    let s := State.resetOf { Params.default with fmt := .b64 }
    (readReg s .fir .id).1 = 0x01014001#32 ∧ (readReg s .iir .id).1 = 0x01004002#32 ∧
    (readReg s .win .id).1 = 0x01004003#32 ∧ (readReg s .iir .size0).1 = 3#32 ∧ (readReg s .iir .size1).1 = 2#32 := by
  decide

/-- V-X1, steps 1 and 2: the first error wins. -/
theorem test_firstErrorWins :
    let s1 := (readReg (firState fun b => { b with cidx := 9#32 }) .fir (.lo .cdata)).2
    statusWord s1.fir = 0x2104#32 ∧
    reading (writeCmd .fir 0x99#32 s1) (fun t => statusWord t.fir) = some 0x2106#32 := by decide

/-- V-C6: staging with FW = 64. -/
theorem test_staging :
    let c := { Params.default with fmt := .b64 }
    let b := writeReg c .fir (.hi .din) 0x40140000#32 (writeReg c .fir (.lo .din) 0#32 (State.resetOf c).fir)
    b.din = 0x4014000000000000#64 ∧ (writeReg c .fir (.hi .din) 0x40080000#32 b).din = 0x4008000000000000#64 ∧
    (writeReg c .fir (.lo .din) 1#32 b).din = b.din := by decide

/-- V-C1. -/
theorem test_checkBuffer :
    checkBuffer .b32 0 0 none = some .nullAddr ∧ checkBuffer .b32 0x1000 0 (some 5) = some .zeroLen ∧
    checkBuffer .b32 0x1002 4 (some 5) = some .lenMismatch ∧ checkBuffer .b32 0x1002 5 (some 5) = some .misaligned ∧
    checkBuffer .b32 0xFFFFFFF0 4 none = none ∧ checkBuffer .b32 0xFFFFFFF0 5 none = some .addrRange ∧
    checkBuffer .b32 4 0x40000000 none = some .addrRange ∧ checkBuffer .b64 0x1004 1 none = some .misaligned ∧
    checkBuffer .b64 0xFFFFFFF8 1 none = none := by decide

/-- V-E2 through the bus: `cmd IIR, RESET` is the write of 3 to 0x40000114, placed as the host's program and run by step. -/
theorem test_step_busWrite :
    reading (step ((iirState id).withHost [.write 0x40000114 4 3#64])) (fun t => (t.iir.coef, t.host)) =
      some (List.replicate 5 0#64, []) := by decide +kernel

/-- 30_encoding.md R200: a polling loop on a busy unit reads STATUS and stays, on an idle one it ends. -/
theorem test_step_wait :
    let s := (State.reset.withHost [.wait .fir]).withSched [.host]
    reading (step (s.setBank .fir (s.fir.accept (s.latched .firReset)))) (fun t => (t.received, t.host)) =
      some ([.data 1#64], [.wait .fir]) ∧
    reading (step s) (fun t => (t.received, t.host)) = some ([.data 0#64], []) := by decide +kernel

/-- 20_memory.md R143: a write of system memory, least significant byte first. -/
theorem test_step_memoryWrite :
    reading (step (State.reset.withHost [.write 0x2000 4 0x44332211#64])) (fun t => (t.mem, t.received)) =
      some ([(0x2000, 0x11#8), (0x2001, 0x22#8), (0x2002, 0x33#8), (0x2003, 0x44#8)], []) := by decide +kernel

/-- The host's placing of a word makes the very next step run it. -/
theorem test_withFetchWord :
    reading (step (State.reset.withFetchWord 32 0x20)) (fun t => (t.win.done, t.host, t.sched)) =
      some (true, [], []) := by decide +kernel

/-! ### Witnesses: for every obligation with hypotheses, states and operands that meet them together -/

/-- A ready command from its decidable parts. -/
theorem ready_of {i : Instr} {s : State}
    (h : ((s.bank i.unit).busy == false && i.wf s.cfg && decide (checkOf i s.cfg (s.latched i) = none) &&
      (hitsWindow s.cfg (s.latched i) == false) && decide (raceOf s i.unit (s.latched i) = none)) = true) : Ready i s := by
  simp only [Bool.and_eq_true, beq_iff_eq, decide_eq_true_eq] at h
  exact ⟨h.1.1.1.1, h.1.1.1.2, h.1.1.2, h.1.2, h.2⟩

/-- A state in which every command is ready: operands of all three units set, cutoffs 0.1 and 0.25. -/
def readyState (iirLen : Word) : State :=
  edit .fir (fun b => { b with addr := 0x1000#32, len := 3#32, freqA := 0x3DCCCCCD#64, freqB := 0x3E800000#64 })
    (edit .iir (fun b => { b with addr := 0x2000#32, len := iirLen, addr2 := 0x3000#32, len2 := 2#32 })
      (edit .win (fun b => { b with addr := 0x5000#32, len := 5#32 }) State.reset))

/-- The LEN at which a command of the IIR is ready. -/
def iirLenFor (i : Instr) : Word := if i = .iirSetCoeffs then 3#32 else 5#32

/-- Every command is ready somewhere, its engine next: the witness of ReadyCommandCompletes and of every statement about a
ready command. -/
theorem witness_ReadyCommandCompletes (i : Instr) :
    Ready i (readyState (iirLenFor i)) ∧ engineNext i.unit (readyState (iirLenFor i)).sched = some (none, []) := by
  cases i <;> exact ⟨ready_of (by decide +kernel), by decide +kernel⟩

/-- Both clauses: the engine waiting, and the engine next. -/
theorem witness_AcceptanceLatchesOperands (i : Instr) :
    (Ready i ((readyState (iirLenFor i)).withSched [.host]) ∧
      engineNext i.unit ((readyState (iirLenFor i)).withSched [.host]).sched = none) ∧
    (Ready i (readyState (iirLenFor i)) ∧ engineNext i.unit (readyState (iirLenFor i)).sched = some (none, [])) := by
  refine ⟨?_, witness_ReadyCommandCompletes i⟩
  cases i <;> exact ⟨ready_of (by decide +kernel), by decide +kernel⟩

/-- A ready command of each kind; an engine's turn next, the unit idle. The clause of the exhausted schedule is met in
`witness_DeferredEngineOrder`. -/
theorem witness_DeferredEngineGivesTheSameResult (i : Instr) :
    Ready i (readyState (iirLenFor i)) ∧
    let s := (readyState (iirLenFor i)).withSched [.engine i.unit (some 0)]
    s.sched = [.engine i.unit (some 0)] ∧ (s.bank i.unit).busy = false :=
  ⟨(witness_ReadyCommandCompletes i).1, rfl, by cases i <;> decide⟩

/-- Every command answers a next state somewhere: the hypothesis of the frame statements. -/
theorem witness_CommandFrame (i : Instr) : ∃ t, exec i (readyState (iirLenFor i)) = .next t :=
  ⟨_, exec_ready_now (witness_ReadyCommandCompletes i).1 (witness_ReadyCommandCompletes i).2⟩

theorem witness_CommandTouchesOnlyItsUnit (i : Instr) : ∃ t, exec i (readyState (iirLenFor i)) = .next t :=
  witness_CommandFrame i

/-- A next state, and bytes outside the written range on both sides of it. -/
theorem witness_CommandStoresOnlyInItsRanges :
    (∃ t, exec .firProcess (readyState 5#32) = .next t) ∧
    ¬ storesTo Params.default ((readyState 5#32).latched .firProcess) 0xFFF ∧
    ¬ storesTo Params.default ((readyState 5#32).latched .firProcess) 0x100C := by
  refine ⟨witness_CommandFrame .firProcess, ?_, ?_⟩ <;>
    (rintro ⟨r, hr, -, h⟩
     simp [footprint, readyState, State.latched, latch, edit, Instr.unit, fltBytes, fltWidth, Params.default, State.setBank,
       State.reset, State.resetOf] at hr
     subst hr
     simp [DmaRange.has] at h)

/-- Each reason for an ILLEGAL word, the unit idle. -/
theorem witness_IllegalCommandChangesOnlyStatus :
    (State.reset.fir.busy = false ∧ State.reset.iir.busy = false ∧ State.reset.win.busy = false) ∧
    decode State.reset.cfg.hasDesign .fir 0x101#32 = .illegal .reservedBits ∧
    decode State.reset.cfg.hasDesign .iir 0#32 = .illegal .unassigned ∧
    decode State.reset.cfg.hasDesign .win 2#32 = .illegal .notOfThisUnit ∧
    decode (State.resetOf { Params.default with hasDesign := false }).cfg.hasDesign .fir 0x12#32 =
      .illegal .designAbsent := by decide

/-- A CMD write next in the host's program, once with the host named by the schedule, once with the schedule exhausted. -/
theorem witness_StepRunsDecodedCommand :
    let s := State.reset.withHost [.write (cmdAddress State.reset.cfg.blockBase .win) 4 ((0x22#32 : Word).setWidth 64)]
    decode s.cfg.hasDesign .win 0x22#32 = .command .winSetupHann ∧ (s.withSched [.host]).sched = [.host] ∧
    s.sched = [] ∧ ∀ v, (s.bank v).busy = false := ⟨by decide, rfl, rfl, by intro v; cases v <;> rfl⟩

/-- A record in flight on a unit. -/
def inFlight (i : Instr) (s : State) : State := s.setBank i.unit ((s.bank i.unit).accept (s.latched i))

/-- The schedule exhausted, each unit the first in flight. -/
theorem witness_DeferredEngineOrder (i : Instr) :
    let s := inFlight i (readyState 5#32)
    s.sched = [] ∧ (s.bank i.unit).busy = true ∧ (i.unit = .fir ∨ s.fir.busy = false) ∧
    (i.unit = .win → s.iir.busy = false) := by cases i <;> decide

/-- Busy with each command, and words of both kinds: a command and an ILLEGAL one. -/
theorem witness_BusyCommandIsDropped (i : Instr) :
    ((inFlight i (readyState 5#32)).bank i.unit).busy = true ∧
    decode true i.unit (encode i) = .command i ∧ decode true i.unit 0x99#32 = .illegal .unassigned := by
  cases i <;> decide

/-- One failing operand per error code of validation. -/
theorem witness_ValidationFailureChangesOnlyStatus :
    let reset := State.reset
    let fir := fun g : Bank → Bank => edit .fir g (readyState 5#32)
    checkOf .firProcess reset.cfg (reset.latched .firProcess) = some .nullAddr ∧
    checkOf .firProcess reset.cfg ((fir fun b => { b with len := 0#32 }).latched .firProcess) = some .zeroLen ∧
    checkOf .firSetFactors reset.cfg ((fir fun b => { b with len := 2#32 }).latched .firSetFactors) = some .lenMismatch ∧
    checkOf .firProcess reset.cfg ((fir fun b => { b with addr := 0x1002#32 }).latched .firProcess) = some .misaligned ∧
    checkOf .firProcess reset.cfg ((fir fun b => { b with addr := 0xFFFFFFF8#32 }).latched .firProcess) =
      some .addrRange ∧
    checkOf .firDesignLowpass reset.cfg (reset.latched .firDesignLowpass) = some .freqRange ∧
    checkOf .firDesignBandpass reset.cfg (reset.latched .firDesignBandpass) = some .freqOrder := by decide +kernel

/-- Both faults of a CMD write: a buffer that ends in the window's first byte, and one that shares its last element with a
PROCESS in flight. -/
theorem witness_NothingIsRefused :
    (∃ f, exec .firProcess (edit .fir (fun b => { b with addr := 0x3FFFFFF8#32 }) (readyState 5#32)) = .fault f) ∧
    (∃ f, exec .firProcess (edit .fir (fun b => { b with addr := 0x4FF8#32 })
      (inFlight .winProcess (readyState 5#32))) = .fault f) := by
  refine ⟨⟨.windowOverlap .fir, ?_⟩, ⟨.unitRace .fir .win, ?_⟩⟩
  · exact (exec_eq_issue _ _).trans (issue_window (by decide) (by decide) (by decide +kernel) (by decide +kernel))
  · exact (exec_eq_issue _ _).trans
      (issue_race (by decide) (by decide) (by decide +kernel) (by decide +kernel) (by decide +kernel))

/-- The hypotheses of the three clauses, each at the last byte that still overlaps. -/
theorem witness_HazardsFault :
    (let s := edit .fir (fun b => { b with addr := 0x3FFFFFF8#32 }) (readyState 5#32)
     (s.bank .fir).busy = false ∧ Instr.firProcess.wf s.cfg = true ∧
     checkOf .firProcess s.cfg (s.latched .firProcess) = none ∧ hitsWindow s.cfg (s.latched .firProcess) = true) ∧
    (let s := edit .fir (fun b => { b with addr := 0x4FF8#32 }) (inFlight .winProcess (readyState 5#32))
     (s.bank .fir).busy = false ∧ checkOf .firProcess s.cfg (s.latched .firProcess) = none ∧
     hitsWindow s.cfg (s.latched .firProcess) = false ∧
     (s.bank .win).pend = some (s.latched .winProcess) ∧
     pendsConflict s.cfg (s.latched .firProcess) (s.latched .winProcess) = true) ∧
    (let s := inFlight .iirSetCoeffs (readyState 3#32)
     let r := DmaRange.mk 0x3000 8 false
     (s.bank .iir).pend = some (s.latched .iirSetCoeffs) ∧ r ∈ footprint s.cfg (s.latched .iirSetCoeffs) ∧
     r.touches 0x3007 1 = true ∧ route s.cfg 0x3007 1 = .memory) := by decide +kernel

/-- A tie that rounds to an even encoding, its neighbour as m, and the first quotient that overflows. -/
theorem witness_RoundingIsNearestEven :
    (0 < 2 ∧ roundMag .b32 1 2 = 0 ∧ 0 < infMag .b32 ∧ 1 < infMag .b32) ∧
    roundMag .b32 3 2 = 2 ∧
    roundMag .b32 ((2 ^ 25 - 1) * 2 ^ 252) 1 = infMag .b32 ∧
    roundMag .b32 ((2 ^ 25 - 1) * 2 ^ 252 - 1) 1 = infMag .b32 - 1 := by decide +kernel

/-- V-N2: a finite operand, a zero product and a zero quotient, and a NaN whose sign flips. -/
theorem witness_SignedZeroResults :
    isFinite .b32 0x00000001#64 = true ∧ isFinite .b32 0x7F7FFFFF#64 = true ∧
    isZero .b32 (fmul .b32 0#64 0xC0000000#64 0#64) = true ∧
    isZero .b32 (fdiv .b32 0#64 0#64 0xC0000000#64) = true ∧ (0x7FA00000#64 : Flt).toNat < 2 ^ fltWidth .b32 := by
  decide +kernel

/-- A NaN operand, an operation that delivers a NaN (inf times 0), and a quiet NaN of the format. -/
theorem witness_NaNResultsAreAnyQuietNaN :
    isNaN .b32 0x7F800001#64 = true ∧
    isNaN .b32 (fmul .b32 0#64 0x7F800000#64 0#64) = true ∧
    (Fits .b32 0xFFC00001#64 ∧ isNaN .b32 0xFFC00001#64 = true ∧
      (0xFFC00001#64 : Flt).toNat / 2 ^ (fracBits .b32 - 1) % 2 = 1) :=
  ⟨by decide, by decide +kernel, by unfold Fits; decide, by decide, by decide⟩

theorem witness_ComparisonsAreOrdered :
    isNaN .b64 0x7FF0000000000001#64 = true ∧
    (isFinite .b64 0x8000000000000000#64 = true ∧ isFinite .b64 0x7FEFFFFFFFFFFFFF#64 = true) ∧
    isInf .b64 0xFFF0000000000000#64 = true ∧ isInf .b64 0x7FF0000000000000#64 = true := by decide +kernel

/-- The largest binary32 encoding at the top of the address space, over a memory with a byte listed. -/
theorem witness_StoredValueIsLittleEndian :
    Memory.wf [(0xFFFFFFFF, 1#8)] = true ∧ Fits .b32 0xFFFFFFFF#64 := ⟨by decide, by unfold Fits; decide⟩

theorem witness_FirProcess1FiltersDin :
    Ready .firProcess1 (readyState 5#32) ∧ engineNext .fir (readyState 5#32).sched = some (none, []) :=
  witness_ReadyCommandCompletes .firProcess1

theorem witness_FirProcessFiltersBuffer :
    Memory.wf (readyState 5#32).mem = true ∧ Ready .firProcess (readyState 5#32) ∧
    engineNext .fir (readyState 5#32).sched = some (none, []) :=
  ⟨rfl, witness_ReadyCommandCompletes .firProcess⟩

/-- On each unit the first and the last element, its read and its write failing. -/
theorem witness_ProcessStopsAtBusError :
    ∀ i, i = Instr.firProcess ∨ i = .iirProcess ∨ i = .winProcess →
    ∀ k, k = 0 ∨ k = ((readyState 5#32).bank i.unit).len.toNat - 1 → ∀ access, access = 2 * k ∨ access = 2 * k + 1 →
      let s := (readyState 5#32).withSched [.engine i.unit (some access)]
      Memory.wf s.mem = true ∧ Ready i s ∧ k < (s.bank i.unit).len.toNat ∧
      engineNext i.unit s.sched = some (some access, []) := by
  rintro i (rfl | rfl | rfl) k (rfl | rfl) access (rfl | rfl) <;>
    exact ⟨rfl, ready_of (by decide +kernel), by decide, by decide⟩

/-- More inputs than taps, and fewer: both clauses at j = FIR_SIZE - 1. -/
theorem witness_FirHistoryHoldsLastInputs :
    1 ≤ Params.default.firSize ∧ State.reset.fir.hist.length = Params.default.firSize ∧
    State.reset.fir.head < Params.default.firSize ∧ 2 < Params.default.firSize ∧
    2 < (List.replicate 3 (fltOne .b32)).length ∧ (List.replicate 2 (fltOne .b32)).length ≤ 2 := by decide

/-- Coefficients with a zero and a subnormal among them, head at its last place. -/
theorem witness_FirImpulseResponse :
    let b := { State.reset.fir with coef := [0x80000000#64, 0x00000001#64, 0x7F7FFFFF#64], head := 2 }
    1 ≤ Params.default.firSize ∧ b.coef.length = Params.default.firSize ∧ b.head < Params.default.firSize ∧
    b.hist = List.replicate Params.default.firSize fltZero ∧
    ∀ x ∈ b.coef, Fits Params.default.fmt x ∧ isFinite Params.default.fmt x = true := by
  refine ⟨by decide, by decide, by decide, by decide, ?_⟩
  intro x hx
  simp only [List.mem_cons, List.not_mem_nil, or_false] at hx
  rcases hx with rfl | rfl | rfl <;> exact ⟨by unfold Fits; decide, by decide⟩

theorem witness_ResetCommandsDiffer :
    (Ready .firReset (readyState 5#32) ∧ engineNext .fir (readyState 5#32).sched = some (none, [])) ∧
    (Ready .iirReset (readyState 5#32) ∧ engineNext .iir (readyState 5#32).sched = some (none, [])) :=
  ⟨witness_ReadyCommandCompletes .firReset, witness_ReadyCommandCompletes .iirReset⟩

/-- Of the NC reads the last one fails, or the first index past them is named, or none. -/
theorem witness_SetFactorsLoadsAllOrNothing :
    ∀ i, i = Instr.firSetFactors ∨ i = .iirSetFactors ∨ i = .winSetFactors →
    ∀ k, k = Params.default.nc i.unit - 1 ∨ k = Params.default.nc i.unit →
      let s := (readyState 5#32).withSched [.engine i.unit (some k)]
      Ready i s ∧ engineNext i.unit s.sched = some (some k, []) := by
  rintro i (rfl | rfl | rfl) k (rfl | rfl) <;> exact ⟨ready_of (by decide +kernel), by decide⟩

/-- The invariant holds of the state in which every command is ready. -/
theorem readyState_inv (n : Word) : Inv (readyState n) := by
  have all : ∀ (k : Nat) (v : Flt), Fits .b32 v → ∀ x ∈ List.replicate k v, Fits .b32 x :=
    fun _ _ hv _ hx => by rw [List.eq_of_mem_replicate hx]; exact hv
  have zero : Fits .b32 fltZero := fltZero_fits _
  have one : Fits .b32 (fltOne .b32) := fltOne_fits _
  have freqs : Fits .b32 0x3DCCCCCD#64 ∧ Fits .b32 0x3E800000#64 := ⟨by unfold Fits; decide, by unfold Fits; decide⟩
  have idle : ∀ u, ((readyState n).bank u).pend = none := by intro u; cases u <;> rfl
  refine ⟨test_wf_default, ?_, rfl, fun _ h => (List.not_mem_nil h).elim, fun u _ p _ _ hp => (by rw [idle] at hp; cases hp),
    fun u p hp => (by rw [idle] at hp; cases hp)⟩
  intro u
  have latches : (readyState n).cfg.fmt = .b32 → ((readyState n).bank u).stFreqA = 0#32 ∧
      ((readyState n).bank u).stFreqB = 0#32 ∧ ((readyState n).bank u).stDin = 0#32 ∧
      ((readyState n).bank u).stCdata = 0#32 ∧ ((readyState n).bank u).stHdata = 0#32 := by
    intro _; cases u <;> exact ⟨rfl, rfl, rfl, rfl, rfl⟩
  have pend : ∀ p, ((readyState n).bank u).pend = some p → PendInv (readyState n).cfg u p :=
    fun p hp => by rw [idle] at hp; cases hp
  cases u
  · exact ⟨rfl, rfl, by show 0 < 3; decide, all _ _ zero, all _ _ zero, ⟨freqs.1, freqs.2, zero, zero⟩, latches,
      .inl rfl, pend⟩
  · exact ⟨rfl, rfl, rfl, all _ _ zero, all _ _ zero, ⟨zero, zero, zero, zero⟩, latches, .inl rfl, pend⟩
  · exact ⟨rfl, rfl, rfl, all _ _ one, all _ _ zero, ⟨zero, zero, zero, zero⟩, latches, .inl rfl, pend⟩

/-- The invariant does not look at the schedule while every unit is idle. -/
theorem readyState_inv_sched (n : Word) (t : List Turn) : Inv ((readyState n).withSched t) := by
  have h := readyState_inv n
  have idle : ∀ u, ((readyState n).bank u).pend = none := by intro u; cases u <;> rfl
  have same : ∀ u, ((readyState n).withSched t).bank u = (readyState n).bank u := by intro u; cases u <;> rfl
  refine ⟨h.legal, fun u => ?_, h.memWf, h.memTop, fun u v p q huv hp hq => ?_, fun u p hp => ?_⟩
  · rw [same]; exact h.banks u
  · rw [same] at hp hq; exact h.noRace u v p q huv hp hq
  · rw [same, idle] at hp; cases hp

/-- No bus error, the last write failing, and the first index past the writes. -/
theorem witness_GetFactorsStoresTheVector :
    ∀ i, i = Instr.firGetFactors ∨ i = .iirGetFactors ∨ i = .winGetFactors →
    ∀ fail, fail = none ∨ fail = some (Params.default.nc i.unit - 1) ∨ fail = some (Params.default.nc i.unit) →
      let s := (readyState 5#32).withSched [.engine i.unit fail]
      Inv s ∧ Ready i s ∧ engineNext i.unit s.sched = some (fail, []) := by
  rintro i (rfl | rfl | rfl) fail (rfl | rfl | rfl) <;>
    exact ⟨readyState_inv_sched _ _, ready_of (by decide +kernel), by decide⟩

/-- A tap at the centre and one beside it, the last tap of a normalization, and the three commands ready. -/
theorem witness_DesignCommandsWriteOnlyCoefficients :
    (1 < 3 ∧ 1 = (3 - 1) / 2 ∧ 2 < 3 ∧ 2 ≠ (3 - 1) / 2 ∧ 2 < [fltZero, fltZero, fltZero].length) ∧
    engineNext .fir (readyState 5#32).sched = some (none, []) ∧ Ready .firDesignLowpass (readyState 5#32) ∧
    Ready .firDesignHighpass (readyState 5#32) ∧ Ready .firDesignBandpass (readyState 5#32) :=
  ⟨by decide, rfl, (witness_ReadyCommandCompletes .firDesignLowpass).1, (witness_ReadyCommandCompletes .firDesignHighpass).1,
    (witness_ReadyCommandCompletes .firDesignBandpass).1⟩

/-- A value for each way of not being valid. -/
theorem witness_FreqValidIsTheOpenInterval :
    isZero .b32 0x80000000#64 = true ∧ isInf .b32 0x7F800000#64 = true ∧ isNaN .b32 0x7F800001#64 = true := by decide

/-- The smallest and the largest valid cutoff. -/
theorem witness_LowpassOfOneTapIsOne :
    (Fits .b32 0x00000001#64 ∧ freqValid .b32 0x00000001#64 = true) ∧
    (Fits .b32 0x3EFFFFFF#64 ∧ freqValid .b32 0x3EFFFFFF#64 = true) :=
  ⟨⟨by unfold Fits; decide, by decide⟩, ⟨by unfold Fits; decide, by decide⟩⟩

/-- A pair of cutoffs for each clause, at the interval's ends. -/
theorem witness_BandpassValidationOrder :
    (readyState 5#32).fir.busy = false ∧ (readyState 5#32).cfg.hasDesign = true ∧
    fltLt .b32 0x3E800000#64 0x3E800000#64 = false ∧ isNaN .b32 0x7FC00000#64 = true ∧
    (fltLt .b32 0x3E800000#64 0x3F000000#64 = true ∧ freqValid .b32 0x3F000000#64 = false) ∧
    (fltLt .b32 0#64 0x3E800000#64 = true ∧ freqValid .b32 0x3E800000#64 = true ∧ freqValid .b32 0#64 = false) ∧
    (fltLt .b32 0x00000001#64 0x3EFFFFFF#64 = true ∧ freqValid .b32 0x3EFFFFFF#64 = true ∧
      freqValid .b32 0x00000001#64 = true) := by decide

/-- A tap beside the centre, for an even size, and a finite value. -/
theorem witness_HighpassComplementsLowpass :
    (3 < 4 ∧ 3 ≠ centreTap 4) ∧ isFinite .b32 0x7F7FFFFF#64 = true ∧ 1 ≤ 1 := by decide

theorem witness_IirProcess1StepsTheDifferenceEquation :
    Ready .iirProcess1 (readyState 5#32) ∧ engineNext .iir (readyState 5#32).sched = some (none, []) :=
  witness_ReadyCommandCompletes .iirProcess1

theorem witness_IirProcessFiltersBuffer :
    Memory.wf (readyState 5#32).mem = true ∧ Ready .iirProcess (readyState 5#32) ∧
    engineNext .iir (readyState 5#32).sched = some (none, []) :=
  ⟨rfl, witness_ReadyCommandCompletes .iirProcess⟩

/-- The last read of b, the last read of a, and the first index past both. -/
theorem witness_SetCoeffsLoadsBothOrNothing :
    ∀ k, k = 2 ∨ k = 4 ∨ k = 5 →
      let s := (readyState 3#32).withSched [.engine .iir (some k)]
      Ready .iirSetCoeffs s ∧ engineNext .iir s.sched = some (some k, []) := by
  rintro k (rfl | rfl | rfl) <;> exact ⟨ready_of (by decide +kernel), by decide⟩

/-- A failing b, a sound b with and without feedback. -/
theorem witness_SetCoeffsValidationOrder :
    checkBuffer .b32 0x2000 2 (some 3) = some .lenMismatch ∧
    (checkBuffer .b32 0x2000 3 (some 3) = none ∧ 0 < Params.default.numA) ∧
    { Params.default with numA := 0 }.numA = 0 := by decide

/-- The IIR after reset, the largest finite input. -/
theorem witness_ZeroCoefficientsGiveZero :
    (∀ y ∈ State.reset.iir.coef, y = fltZero) ∧ isFinite .b32 0x7F7FFFFF#64 = true ∧
    ∀ y ∈ State.reset.iir.hist, isFinite .b32 y = true :=
  ⟨fun _ hy => List.eq_of_mem_replicate hy, by decide, fun _ hy => by rw [List.eq_of_mem_replicate hy]; decide⟩

theorem witness_NaNOutputIsLatched :
    let b := { State.reset.iir with hist := [0#64, 0#64, 0#64, 0x7FC00000#64, 0#64] }
    1 ≤ Params.default.numB ∧ 1 ≤ Params.default.numA ∧
    b.hist.length = Params.default.numB + Params.default.numA ∧
    isNaN Params.default.fmt (b.hist.getD Params.default.numB fltZero) = true := by decide +kernel

theorem witness_WindowProcessMultiplies :
    Memory.wf (readyState 5#32).mem = true ∧ Ready .winProcess (readyState 5#32) ∧
    engineNext .win (readyState 5#32).sched = some (none, []) :=
  ⟨rfl, witness_ReadyCommandCompletes .winProcess⟩

/-- The reset coefficients are all ONE, and untouched memory holds no NaN. -/
theorem witness_RectangularWindowIsIdentity :
    let s := readyState 5#32
    Memory.wf s.mem = true ∧ Ready .winProcess s ∧ engineNext .win s.sched = some (none, []) ∧
    s.win.coef = List.replicate s.cfg.winSize (fltOne s.cfg.fmt) ∧
    ∀ k, k < s.cfg.winSize → isNaN s.cfg.fmt (readFlt s.cfg.fmt s.mem (elemAddr s.cfg.fmt s.win.addr.toNat k)) = false :=
  ⟨rfl, (witness_ReadyCommandCompletes .winProcess).1, rfl, rfl, by decide +kernel⟩

theorem witness_WindowSetupsLoadTheirTables :
    engineNext .win (readyState 5#32).sched = some (none, []) ∧ Ready .winSetupRect (readyState 5#32) ∧
    Ready .winSetupHamming (readyState 5#32) ∧ Ready .winSetupHann (readyState 5#32) ∧
    Ready .winSetupBlackman (readyState 5#32) :=
  ⟨rfl, (witness_ReadyCommandCompletes .winSetupRect).1, (witness_ReadyCommandCompletes .winSetupHamming).1,
    (witness_ReadyCommandCompletes .winSetupHann).1, (witness_ReadyCommandCompletes .winSetupBlackman).1⟩

/-- The smallest size, its last entry, and an odd size. -/
theorem witness_RomTablesAreSymmetric : 2 ≤ 2 ∧ 1 < 2 ∧ (2 ≤ 3 ∧ 3 % 2 = 1) := by decide

theorem witness_RomTablesApproximateTheFormulas : 2 ≤ 2 ∧ 1 < 2 := by decide

/-- LEN one too short, one too long, and 0. -/
theorem witness_WindowLengthIsEnforced :
    ∀ n : Word, n = 0#32 ∨ n = 4#32 ∨ n = 6#32 →
      let s := edit .win (fun b => { b with len := n }) (readyState 5#32)
      s.win.busy = false ∧ s.win.addr ≠ 0#32 ∧ s.win.len.toNat ≠ s.cfg.winSize := by
  rintro n (rfl | rfl | rfl) <;> decide

/-- V-C1: operands for each clause, at the boundaries. -/
theorem witness_ValidationFollowsTheTable :
    fltBytes .b32 = 4 ∧ ¬ fltBytes .b32 ∣ 0x1002 ∧ fltBytes .b32 ∣ 0xFFFFFFF0 ∧
    2 ^ 32 < 0xFFFFFFF0 + 5 * fltBytes .b32 ∧ 0xFFFFFFF0 + 4 * fltBytes .b32 ≤ 2 ^ 32 := by decide

/-- Both formats, an idle unit, and reserved offsets at their edges. -/
theorem witness_RegisterAccessClasses :
    State.reset.cfg.fmt = .b32 ∧ (State.resetOf { Params.default with fmt := .b64 }).cfg.fmt = .b64 ∧
    (State.reset.bank .win).busy = false ∧
    ∀ off, off ∈ [0x3C, 0x70, 0x2FC, 0x300, 0x3FC] →
      off < 0x400 ∧ off % 4 = 0 ∧ (0x300 ≤ off ∨ off % 0x100 = 0x3C ∨ 0x70 ≤ off % 0x100) := by decide

/-- A busy unit, and an idle one with the last index in range and the first out of range, for each window. -/
theorem witness_StateAccessFollowsItsChecks :
    State.reset.cfg.fmt = .b32 ∧ (State.resetOf { Params.default with fmt := .b64 }).cfg.fmt = .b64 ∧
    ((inFlight .firProcess (readyState 5#32)).bank .fir).busy = true ∧
    (State.reset.bank .fir).busy = false ∧
    (let b := { State.reset.fir with cidx := 3#32, hidx := 3#32 }
     Params.default.nc .fir ≤ b.cidx.toNat ∧ Params.default.nh .fir ≤ b.hidx.toNat) ∧
    (let b := { State.reset.fir with cidx := 2#32, hidx := 2#32 }
     b.cidx.toNat < Params.default.nc .fir ∧ b.hidx.toNat < Params.default.nh .fir) ∧
    Params.default.firSize ≤ (3#32 : Word).toNat ∧ (2#32 : Word).toNat < Params.default.firSize := by decide

/-- Both formats; idle with the last index in range and the first out of range, and busy. -/
theorem witness_FltRegistersFollowTheirFormat :
    State.reset.cfg.fmt = .b32 ∧
    let s := State.resetOf { Params.default with fmt := .b64 }
    s.cfg.fmt = .b64 ∧ (s.bank .iir).busy = false ∧
    ((4#32 : Word).toNat < s.cfg.nc .iir ∧ (4#32 : Word).toNat < s.cfg.nh .iir) ∧
    (s.cfg.nc .iir ≤ (5#32 : Word).toNat ∧ s.cfg.nh .iir ≤ (5#32 : Word).toNat) ∧
    ((inFlight .iirReset s).bank .iir).busy = true := by decide

theorem witness_IdentificationWords : State.reset.cfg.legal = true := by decide

/-- A FIR in flight, with the PROG bound met at its lower end. -/
theorem witness_BusyReadsAreBounded :
    let s := inFlight .firProcess (readyState 5#32)
    s.cfg.legal = true ∧ s.fir.busy = true ∧ (s.bank .fir).pend = some ((readyState 5#32).latched .firProcess) ∧
    (s.bank .fir).progSeen ≤ (outcomeOf s .fir ((readyState 5#32).latched .firProcess)).prog.toNat :=
  ⟨by decide, by decide, by decide, Nat.zero_le _⟩

/-- A wrong width, and a wrong offset at the end of the window; the first and the last word of the map; the reserved words
at their edges; memory accesses that end at the window, begin behind it, end at the top of memory, and lie beside a buffer in
flight; accesses just outside those; and each kind of host access next, the polling loop and the end of the program too. -/
theorem witness_HostAccessesFollowTheMap :
    ((0 < 0x400 ∧ (8 ≠ 4 ∨ 0 % 4 ≠ 0)) ∧ (0x3FF < 0x400 ∧ (4 ≠ 4 ∨ 0x3FF % 4 ≠ 0))) ∧
    (regAt 0 = some .id ∧ regAt 0x6C = some (.hi .hdata)) ∧
    (∀ off, off ∈ [0x3C, 0x70, 0x2FC, 0x300, 0x3FC] →
      off < 0x400 ∧ off % 4 = 0 ∧ (0x300 ≤ off ∨ off % 0x100 = 0x3C ∨ 0x70 ≤ off % 0x100)) ∧
    (let s := inFlight .firProcess (readyState 5#32)
     Memory.wf s.mem = true ∧ (s.bank .fir).pend = some (s.latched .firProcess) ∧
     ∀ x, x ∈ [(0x3FFFFFF8, 8), (0x40000400, 1), (0xFFFFFFFE, 2), (0xFFC, 4), (0x100C, 4)] →
      x.2 ∈ [1, 2, 4, 8] ∧ x.1 + x.2 ≤ 2 ^ 32 ∧ (x.1 + x.2 ≤ s.cfg.blockBase ∨ s.cfg.blockBase + 0x400 ≤ x.1) ∧
      ∀ r ∈ footprint s.cfg (s.latched .firProcess), r.touches x.1 x.2 = false) ∧
    (∀ x, x ∈ [(0x1000, 3), (0xFFFFFFFF, 2), (0x3FFFFFFE, 4)] →
      (x.1 < Params.default.blockBase ∨ Params.default.blockBase + 0x400 ≤ x.1) ∧
      (x.2 ∉ [1, 2, 4, 8] ∨ 2 ^ 32 < x.1 + x.2 ∨
        (x.1 < Params.default.blockBase ∧ Params.default.blockBase < x.1 + x.2))) ∧
    (∀ ops, ops ∈ [[HostOp.write 0x40000018 4 0x1000#64], [.read 0x40000018 4], [.wait .fir], []] →
      let s := (State.reset.withHost ops).withSched [.host]
      s.sched = [.host] ∧ s.host = ops) ∧
    State.reset.sched = [] ∧ ∀ v, (State.reset.bank v).busy = false :=
  ⟨by decide, by decide, by decide, by decide, by decide, fun _ _ => ⟨rfl, rfl⟩, rfl, by intro v; cases v <;> rfl⟩

/-- Two banks with the same full state that are not equal, DOUT among what differs; and a busy unit. -/
theorem witness_FullStateDeterminesResults :
    (let b := State.reset.fir
     let b' := { b with addr := 1#32, done := true, dout := 1#64 }
     b.coef = b'.coef ∧ b.hist = b'.hist ∧ b.head = b'.head ∧ b.draws = b'.draws ∧ b ≠ b') ∧
    ((inFlight .firProcess1 (readyState 5#32)).bank .fir).busy = true := by decide

/-- Three commands in flight: a PROCESS of the FIR, a GET_FACTORS of the IIR, a PROCESS of the WIN. -/
def threeInFlight : State := inFlight .winProcess (inFlight .iirGetFactors (inFlight .firProcess (readyState 5#32)))

theorem witness_ResetAbandonsCommands :
    Inv threeInFlight ∧ threeInFlight.fir.pend = some ((readyState 5#32).latched .firProcess) ∧
    threeInFlight.iir.pend = some ((readyState 5#32).latched .iirGetFactors) ∧
    threeInFlight.win.pend = some ((readyState 5#32).latched .winProcess) := by
  have one : Inv (inFlight .firProcess (readyState 5#32)) := (readyState_inv _).accepted (ready_of (by decide +kernel))
  have two := one.accepted (i := .iirGetFactors) (ready_of (by decide +kernel))
  exact ⟨two.accepted (i := .winProcess) (ready_of (by decide +kernel)), by decide, by decide, by decide⟩

/-- A reset moves the counter of free values past all the abandoned command may have taken: three samples of six. -/
theorem test_reset_advances_draws :
    (blockReset (inFlight .firProcess (readyState 5#32))).fir.draws = 18 := by decide +kernel

/-- A turn of the reset next. -/
theorem witness_ResetLeavesTheStatedState : (State.reset.withSched [.rst]).sched = [.rst] := rfl

/-- The largest legal instance. -/
theorem witness_ResetMeetsInv :
    { Params.default with fmt := .b64, firSize := 65536, numB := 1, numA := 65535, winSize := 65536 }.legal = true := by
  decide

/-- A state that meets the invariant and steps. -/
theorem witness_StepKeepsInv :
    Inv (readyState 5#32) ∧ ∃ t, step (readyState 5#32) = .next t := ⟨readyState_inv _, _, rfl⟩

/-- Three units in flight. -/
theorem witness_ExhaustedScheduleDrains :
    threeInFlight.sched = [] ∧ ∀ u, (threeInFlight.bank u).busy = true := ⟨rfl, by intro u; cases u <;> rfl⟩

end Sys2Proof.Tests
end

/-! PROOFS. Signed zeros, the sign of a product and of a quotient, and FNEG as a flip of the sign bit
(00_scope.md R19). -/

namespace Sys2Proof.Machine

section SignedZeros
variable (f : Fmt)

theorem infMag_pos : 0 < infMag f := by cases f <;> decide

@[simp] theorem magUnits_zero : magUnits f 0 = 0 := by simp [magUnits]

theorem isZero_packFlt_zero (neg : Bool) : isZero f (packFlt f neg 0) = true := by
  simp [isZero, fltMag_packFlt f neg 0 (signWeight_pos f)]

theorem isFinite_of_isZero {x : Flt} (h : isZero f x = true) : isFinite f x = true := by
  have := infMag_pos f
  simp only [isZero, isFinite, decide_eq_true_eq] at *
  omega

theorem isFinite_fneg (x : Flt) : isFinite f (fneg f x) = isFinite f x := by simp [isFinite, fltMag_fneg]

theorem signedUnits_of_isZero {x : Flt} (h : isZero f x = true) : signedUnits f x = 0 := by
  have hmag : fltMag f x = 0 := of_decide_eq_true h
  simp [signedUnits, fltUnits, hmag]

theorem roundSum_zero (bothNeg : Bool) : roundSum f bothNeg 0 = packFlt f bothNeg 0 := if_pos rfl

/-- Finite operands take FADD's last branch, the rounded sum. -/
theorem fadd_of_isFinite (q : BitVec 64) {a b : Flt} (ha : isFinite f a = true) (hb : isFinite f b = true) :
    fadd f q a b = roundSum f (fltNeg f a && fltNeg f b) (signedUnits f a + signedUnits f b) := by
  obtain ⟨hnanA, hinfA⟩ := not_nan_inf_of_finite f a ha
  obtain ⟨hnanB, hinfB⟩ := not_nan_inf_of_finite f b hb
  simp [fadd, hnanA, hinfA, hnanB, hinfB]

/-- A sum of two zeros is -0 only when both are. -/
theorem fadd_packFlt_zero (q : BitVec 64) (n n' : Bool) :
    fadd f q (packFlt f n 0) (packFlt f n' 0) = packFlt f (n && n') 0 := by
  have hz := isZero_packFlt_zero f
  have hp := signWeight_pos f
  rw [fadd_of_isFinite f q (isFinite_of_isZero f (hz n)) (isFinite_of_isZero f (hz n')),
    signedUnits_of_isZero f (hz n), signedUnits_of_isZero f (hz n'), Int.add_zero, roundSum_zero,
    fltNeg_packFlt f n 0 hp, fltNeg_packFlt f n' 0 hp]

/-- x - x adds opposite values of opposite signs: the exact sum is zero, and the operands are not both negative. -/
theorem fsub_self (q : BitVec 64) {x : Flt} (h : isFinite f x = true) : fsub f q x x = fltZero := by
  have hneg : isFinite f (fneg f x) = true := by rw [isFinite_fneg, h]
  rw [fsub, fadd_of_isFinite f q h hneg, signedUnits_fneg, fltNeg_fneg, Int.add_right_neg, roundSum_zero,
    Bool.and_not_self]
  rfl

/-- What FMUL can deliver: a NaN, or a magnitude with the exclusive-or of the operand signs. -/
theorem fmul_cases (q : BitVec 64) (a b : Flt) :
    fmul f q a b = quietNaN f q ∨
      ∃ m, m < signWeight f ∧ fmul f q a b = packFlt f (fltNeg f a != fltNeg f b) m := by
  unfold fmul
  split_ifs
  · exact .inl rfl
  · exact .inl rfl
  · exact .inr ⟨infMag f, infMag_lt f, rfl⟩
  · exact .inr ⟨_, roundMag_lt f _ _, rfl⟩

/-- What FDIV can deliver: a NaN, or a magnitude with the exclusive-or of the operand signs. -/
theorem fdiv_cases (q : BitVec 64) (a b : Flt) :
    fdiv f q a b = quietNaN f q ∨
      ∃ m, m < signWeight f ∧ fdiv f q a b = packFlt f (fltNeg f a != fltNeg f b) m := by
  unfold fdiv
  split_ifs
  · exact .inl rfl
  · exact .inl rfl
  · exact .inr ⟨infMag f, infMag_lt f, rfl⟩
  · exact .inr ⟨0, signWeight_pos f, rfl⟩
  · exact .inl rfl
  · exact .inr ⟨infMag f, infMag_lt f, rfl⟩
  · exact .inr ⟨_, roundMag_lt f _ _, rfl⟩

/-- A zero is no NaN, so of the two results of `fmul_cases` and `fdiv_cases` it is the one with the stated sign. -/
theorem fltNeg_of_isZero {q : BitVec 64} {neg : Bool} {r : Flt}
    (hr : r = quietNaN f q ∨ ∃ m, m < signWeight f ∧ r = packFlt f neg m) (hz : isZero f r = true) :
    fltNeg f r = neg := by
  obtain rfl | ⟨m, hm, rfl⟩ := hr
  · have hfin := isFinite_of_isZero f hz
    have hnan := (not_nan_inf_of_finite f _ hfin).1
    rw [isNaN_quietNaN] at hnan
    contradiction
  · exact fltNeg_packFlt f neg m hm

theorem signWeight_toNat : (BitVec.ofNat 64 (signWeight f)).toNat = signWeight f := by cases f <;> rfl

theorem fltMag_xor_signWeight (a : Flt) : fltMag f (a ^^^ BitVec.ofNat 64 (signWeight f)) = fltMag f a := by
  rw [fltMag, BitVec.toNat_xor, signWeight_toNat, signWeight, Nat.xor_mod_two_pow, Nat.mod_self, Nat.xor_zero]
  rfl

theorem fltNeg_xor_signWeight (a : Flt) : fltNeg f (a ^^^ BitVec.ofNat 64 (signWeight f)) = !fltNeg f a := by
  rw [fltNeg, fltNeg, BitVec.toNat_xor, signWeight_toNat, signWeight, Nat.xor_div_two_pow,
    Nat.div_self (Nat.two_pow_pos _), Nat.xor_mod_two_eq]
  rcases Nat.mod_two_eq_zero_or_one (a.toNat / 2 ^ (fltWidth f - 1)) with h | h <;> simp [Nat.add_mod, h]

theorem xor_signWeight_fits {a : Flt} (h : Fits f a) : Fits f (a ^^^ BitVec.ofNat 64 (signWeight f)) := by
  have hw : signWeight f < 2 ^ fltWidth f := by
    have := signWeight_pos f
    have := two_signWeight f
    omega
  rw [Fits, BitVec.toNat_xor, signWeight_toNat]
  exact Nat.xor_lt_two_pow h hw

/-- FNEG flips the sign bit of every encoding and keeps the other bits, a NaN's payload included. -/
theorem fneg_eq_xor {a : Flt} (h : Fits f a) : fneg f a = a ^^^ BitVec.ofNat 64 (signWeight f) := by
  rw [← packFlt_eta f _ (xor_signWeight_fits f h), fltNeg_xor_signWeight, fltMag_xor_signWeight]
  rfl

end SignedZeros

/-- Settles O16: from the zero sums of FADD, what FMUL and FDIV can deliver, and FNEG as a flip of the sign bit. -/
theorem signedZeroResults : Obligations.SignedZeroResults := by
  intro f q
  exact ⟨fadd_packFlt_zero f q false true, fadd_packFlt_zero f q true true,
    fun _ => fsub_self f q,
    fun a b => fltNeg_of_isZero f (fmul_cases f q a b),
    fun a b => fltNeg_of_isZero f (fdiv_cases f q a b),
    fun _ => fneg_eq_xor f⟩

end Sys2Proof.Machine

/-! PROOFS. The comparisons are the order of the values: the value in quanta is a strictly increasing function of the order
key (00_scope.md R21). -/

namespace Sys2Proof.Machine

section Comparisons
variable (f : Fmt)

/-- The value of the encoding with exponent field e and fraction r. -/
theorem magUnits_mul_add (e r : Nat) (hr : r < 2 ^ fracBits f) :
    magUnits f (e * 2 ^ fracBits f + r) = if e = 0 then r else (2 ^ fracBits f + r) * 2 ^ (e - 1) := by
  have hp : 0 < 2 ^ fracBits f := Nat.two_pow_pos _
  have hdiv : (e * 2 ^ fracBits f + r) / 2 ^ fracBits f = e := by
    rw [Nat.add_comm, Nat.add_mul_div_right _ _ hp, Nat.div_eq_of_lt hr, Nat.zero_add]
  have hmod : (e * 2 ^ fracBits f + r) % 2 ^ fracBits f = r := by rw [Nat.mul_add_mod', Nat.mod_eq_of_lt hr]
  rw [magUnits, hdiv, hmod]
  split
  next he => rw [he, Nat.zero_mul, Nat.zero_add]
  next => rfl

/-- The next encoding stands for a larger value, across a carry into the exponent field too. -/
theorem magUnits_lt_succ (m : Nat) : magUnits f m < magUnits f (m + 1) := by
  have hr : m % 2 ^ fracBits f < 2 ^ fracBits f := Nat.mod_lt _ (Nat.two_pow_pos _)
  rw [← Nat.div_add_mod' m (2 ^ fracBits f)]
  generalize m / 2 ^ fracBits f = e, m % 2 ^ fracBits f = r at hr ⊢
  rw [magUnits_mul_add f e r hr]
  by_cases hcarry : r + 1 < 2 ^ fracBits f
  · rw [Nat.add_assoc, magUnits_mul_add f e (r + 1) hcarry]
    split
    · exact Nat.lt_succ_self r
    · exact Nat.mul_lt_mul_of_pos_right (by omega) (Nat.two_pow_pos _)
  · have hnext : e * 2 ^ fracBits f + r + 1 = (e + 1) * 2 ^ fracBits f + 0 := by rw [Nat.add_mul]; omega
    rw [hnext, magUnits_mul_add f (e + 1) 0 (Nat.two_pow_pos _), if_neg e.succ_ne_zero]
    cases e with
    | zero => simpa using hr
    | succ k =>
      rw [if_neg k.succ_ne_zero, Nat.add_sub_cancel, Nat.add_sub_cancel, Nat.add_zero, Nat.pow_succ', ← Nat.mul_assoc]
      exact Nat.mul_lt_mul_of_pos_right (by omega) (Nat.two_pow_pos k)

theorem magUnits_strictMono : StrictMono (magUnits f) := strictMono_nat_of_lt_succ (magUnits_lt_succ f)

/-- The value in quanta an order key stands for. -/
def keyUnits (k : Int) : Int := k.sign * magUnits f k.natAbs

theorem keyUnits_neg (k : Int) : keyUnits f (-k) = -keyUnits f k := by
  rw [keyUnits, keyUnits, Int.sign_neg, Int.natAbs_neg, Int.neg_mul]

theorem keyUnits_natCast (m : Nat) : keyUnits f m = magUnits f m := by
  rcases m.eq_zero_or_pos with rfl | hm
  · simp [keyUnits]
  · rw [keyUnits, Int.natAbs_natCast, Int.sign_eq_one_of_pos (Int.natCast_pos.mpr hm), Int.one_mul]

theorem keyUnits_strictMono : StrictMono (keyUnits f) := by
  refine strictMono_of_odd_strictMonoOn_nonneg (keyUnits_neg f) fun x hx y hy hxy => ?_
  lift x to Nat using hx
  lift y to Nat using hy
  rw [keyUnits_natCast, keyUnits_natCast, Int.ofNat_lt]
  exact magUnits_strictMono f (Int.ofNat_lt.mp hxy)

theorem signedUnits_eq_keyUnits (a : Flt) : signedUnits f a = keyUnits f (orderKey f a) := by
  unfold signedUnits orderKey
  split
  · rw [keyUnits_neg, keyUnits_natCast, fltUnits]
  · rw [keyUnits_natCast, fltUnits]

theorem signedUnits_lt_iff (a b : Flt) : signedUnits f a < signedUnits f b ↔ orderKey f a < orderKey f b := by
  rw [signedUnits_eq_keyUnits, signedUnits_eq_keyUnits, (keyUnits_strictMono f).lt_iff_lt]

theorem signedUnits_le_iff (a b : Flt) : signedUnits f a ≤ signedUnits f b ↔ orderKey f a ≤ orderKey f b := by
  rw [signedUnits_eq_keyUnits, signedUnits_eq_keyUnits, (keyUnits_strictMono f).le_iff_le]

/-- With a NaN operand both comparisons are false. -/
theorem compare_of_isNaN {a b : Flt} (h : (isNaN f a || isNaN f b) = true) :
    fltLt f a b = false ∧ fltLe f a b = false := by simp [fltLt, fltLe, ← Bool.not_or, h]

theorem fltLt_of_not_isNaN {a b : Flt} (ha : isNaN f a = false) (hb : isNaN f b = false) :
    fltLt f a b = decide (orderKey f a < orderKey f b) := by simp [fltLt, ha, hb]

theorem fltLe_of_not_isNaN {a b : Flt} (ha : isNaN f a = false) (hb : isNaN f b = false) :
    fltLe f a b = decide (orderKey f a ≤ orderKey f b) := by simp [fltLe, ha, hb]

theorem isNaN_of_isInf {x : Flt} (h : isInf f x = true) : isNaN f x = false := by
  simp only [isInf, isNaN, decide_eq_true_eq, decide_eq_false_iff_not] at *
  omega

theorem orderKey_of_isInf {x : Flt} (h : isInf f x = true) :
    orderKey f x = if fltNeg f x then -(infMag f : Int) else infMag f := by
  rw [orderKey, of_decide_eq_true h]

theorem orderKey_bounds_of_isFinite {x : Flt} (h : isFinite f x = true) :
    -(infMag f : Int) < orderKey f x ∧ orderKey f x < infMag f := by
  have hmag : fltMag f x < infMag f := of_decide_eq_true h
  unfold orderKey
  split <;> omega

/-- A finite value lies below +∞ and above -∞. -/
theorem finite_compare_inf {a b : Flt} (ha : isFinite f a = true) (hb : isInf f b = true) :
    fltLt f a b = !fltNeg f b ∧ fltLe f a b = !fltNeg f b ∧ fltLt f b a = fltNeg f b ∧ fltLe f b a = fltNeg f b := by
  have hnanA := (not_nan_inf_of_finite f a ha).1
  have hnanB := isNaN_of_isInf f hb
  obtain ⟨hlo, hhi⟩ := orderKey_bounds_of_isFinite f ha
  rw [fltLt_of_not_isNaN f hnanA hnanB, fltLe_of_not_isNaN f hnanA hnanB, fltLt_of_not_isNaN f hnanB hnanA,
    fltLe_of_not_isNaN f hnanB hnanA, orderKey_of_isInf f hb]
  cases fltNeg f b with
  | false => simp [hhi, hhi.le, hhi.not_gt, hhi.not_ge]
  | true => simp [hlo, hlo.le, hlo.not_gt, hlo.not_ge]

/-- Between infinities only the signs count. -/
theorem inf_compare_inf {a b : Flt} (ha : isInf f a = true) (hb : isInf f b = true) :
    fltLt f a b = (fltNeg f a && !fltNeg f b) ∧ fltLe f a b = (fltNeg f a || !fltNeg f b) := by
  have hnanA := isNaN_of_isInf f ha
  have hnanB := isNaN_of_isInf f hb
  have hpos := infMag_pos f
  rw [fltLt_of_not_isNaN f hnanA hnanB, fltLe_of_not_isNaN f hnanA hnanB, orderKey_of_isInf f ha,
    orderKey_of_isInf f hb]
  cases fltNeg f a <;> cases fltNeg f b <;> simp <;> omega

/-- On finite operands the comparisons are those of the values in quanta. -/
theorem finite_compare_finite {a b : Flt} (ha : isFinite f a = true) (hb : isFinite f b = true) :
    (fltLt f a b = true ↔ signedUnits f a < signedUnits f b) ∧
    (fltLe f a b = true ↔ signedUnits f a ≤ signedUnits f b) := by
  have hnanA := (not_nan_inf_of_finite f a ha).1
  have hnanB := (not_nan_inf_of_finite f b hb).1
  rw [fltLt_of_not_isNaN f hnanA hnanB, fltLe_of_not_isNaN f hnanA hnanB, decide_eq_true_iff, decide_eq_true_iff,
    signedUnits_lt_iff, signedUnits_le_iff]
  exact ⟨Iff.rfl, Iff.rfl⟩

end Comparisons

/-- Settles O18: NaN operands, then finite ones by the monotone value of the order key, then the infinities. -/
theorem comparisonsAreOrdered : Obligations.ComparisonsAreOrdered := by
  intro f a b
  exact ⟨compare_of_isNaN f, finite_compare_finite f, finite_compare_inf f, inf_compare_inf f⟩

end Sys2Proof.Machine

/-! PROOFS. The status and identification words field by field: each word is a sum of digits, and a field is read back by
division (10_state.md R70 to R75, 30_encoding.md R190). -/

namespace Sys2Proof.Machine

/-- A bit of a word is a binary digit of its number. -/
theorem getLsbD_eq_of_digit {w : Word} {i : Nat} {v : Bool} (h : w.toNat / 2 ^ i % 2 = v.toNat) : w.getLsbD i = v := by
  rw [BitVec.getLsbD, Nat.testBit_eq_decide_div_mod_eq, h]
  cases v <;> rfl

/-- A field of a word is a digit of its number to the base 2 ^ n. -/
theorem toNat_field (w : Word) (i n : Nat) : (w.extractLsb' i n).toNat = w.toNat / 2 ^ i % 2 ^ n := by
  rw [BitVec.extractLsb'_toNat, Nat.shiftRight_eq_div_pow]

theorem field_eq_of_digit {w : Word} {i n k : Nat} (h : w.toNat / 2 ^ i % 2 ^ n = k % 2 ^ n) :
    w.extractLsb' i n = BitVec.ofNat n k :=
  BitVec.eq_of_toNat_eq (by rw [toNat_field, h, BitVec.toNat_ofNat])

theorem toNat_ofNat_word {k : Nat} (h : k < 2 ^ 32) : (BitVec.ofNat 32 k).toNat = k :=
  (BitVec.toNat_ofNat k 32).trans (Nat.mod_eq_of_lt h)

theorem flagAt_eq (v : Bool) (i : Nat) : flagAt v i = v.toNat * 2 ^ i := by cases v <;> simp [flagAt]

section Status
variable (b : Bank)

theorem errField_lt (e : Option ErrCode) : errField e < 2 ^ 8 := by
  cases e with
  | none => decide
  | some e => cases e <;> decide

theorem statusWord_toNat :
    (statusWord b).toNat =
      b.busy.toNat * 2 ^ 0 + b.done.toNat * 2 ^ 1 + b.err.isSome.toNat * 2 ^ 2 + errField b.err * 2 ^ 8 := by
  have hcode := errField_lt b.err
  have hbusy := b.busy.toNat_lt
  have hdone := b.done.toNat_lt
  have herr := b.err.isSome.toNat_lt
  rw [statusWord, flagAt_eq, flagAt_eq, flagAt_eq]
  exact toNat_ofNat_word (by omega)

theorem statusWord_fields :
    (statusWord b).getLsbD 0 = b.busy ∧ (statusWord b).getLsbD 1 = b.done ∧ (statusWord b).getLsbD 2 = b.err.isSome ∧
    (statusWord b).extractLsb' 3 5 = 0#5 ∧ ((statusWord b).extractLsb' 8 8).toNat = errField b.err ∧
    (statusWord b).extractLsb' 16 16 = 0#16 := by
  have hcode := errField_lt b.err
  have hbusy := b.busy.toNat_lt
  have hdone := b.done.toNat_lt
  have herr := b.err.isSome.toNat_lt
  have hword := statusWord_toNat b
  refine ⟨getLsbD_eq_of_digit ?_, getLsbD_eq_of_digit ?_, getLsbD_eq_of_digit ?_, field_eq_of_digit ?_,
    (toNat_field _ 8 8).trans ?_, field_eq_of_digit ?_⟩ <;> omega

/-- A STATUS write as one record update. -/
theorem clearStatus_eq (w : Word) :
    b.clearStatus w = { b with
      done := b.done && !w.getLsbD 1,
      err := if w.getLsbD 2 then none else b.err,
      errAddr := if w.getLsbD 2 then 0#32 else b.errAddr } := by
  unfold Bank.clearStatus
  cases w.getLsbD 1 <;> cases w.getLsbD 2 <;> simp

end Status

theorem kindCode_lt (u : UnitId) : kindCode u < 2 ^ 8 := by cases u <;> decide

theorem fltWidth_lt (f : Fmt) : fltWidth f < 2 ^ 8 := by cases f <;> decide

section Identification
variable (c : Params) (u : UnitId)

theorem idWord_toNat :
    (idWord c u).toNat =
      kindCode u + fltWidth c.fmt * 2 ^ 8 + (c.hasDesign && decide (u = .fir)).toNat * 2 ^ 16 + 2 ^ 24 := by
  have hkind := kindCode_lt u
  have hwidth := fltWidth_lt c.fmt
  have hdesign := (c.hasDesign && decide (u = .fir)).toNat_lt
  rw [idWord, flagAt_eq]
  exact toNat_ofNat_word (by omega)

theorem idWord_fields :
    ((idWord c u).extractLsb' 0 8).toNat = kindCode u ∧ ((idWord c u).extractLsb' 8 8).toNat = fltWidth c.fmt ∧
    (idWord c u).getLsbD 16 = (c.hasDesign && decide (u = .fir)) ∧
    (idWord c u).extractLsb' 17 7 = 0#7 ∧ (idWord c u).extractLsb' 24 8 = 0x01#8 := by
  have hkind := kindCode_lt u
  have hwidth := fltWidth_lt c.fmt
  have hdesign := (c.hasDesign && decide (u = .fir)).toNat_lt
  have hword := idWord_toNat c u
  refine ⟨(toNat_field _ 0 8).trans ?_, (toNat_field _ 8 8).trans ?_, getLsbD_eq_of_digit ?_, field_eq_of_digit ?_,
    field_eq_of_digit ?_⟩ <;> omega

end Identification

/-- The sizes of a legal instance fit a register word. -/
theorem sizes_lt_of_legal {c : Params} (h : c.legal = true) :
    c.firSize < 2 ^ 32 ∧ c.numB < 2 ^ 32 ∧ c.numA < 2 ^ 32 ∧ c.winSize < 2 ^ 32 := by
  simp only [Params.legal, Bool.and_eq_true, decide_eq_true_eq] at h
  omega

/-- Settles O50: the digits of the STATUS word, and the write as one record update. -/
theorem statusReadsAndClears : Obligations.StatusReadsAndClears := by
  intro c u b w
  obtain ⟨hbusy, hdone, herr, hreserved, hcode, hupper⟩ := statusWord_fields b
  refine ⟨⟨hbusy, hdone, herr, hreserved, hcode.trans ?_, hupper⟩, clearStatus_eq b w⟩
  cases b.err with
  | none => rfl
  | some e => cases e <;> rfl

/-- Settles O52: the digits of the ID word; the sizes of a legal instance are below 2 ^ 32. -/
theorem identificationWords : Obligations.IdentificationWords := by
  intro s u hlegal
  obtain ⟨hfir, hnumB, hnumA, hwin⟩ := sizes_lt_of_legal hlegal
  obtain ⟨hkind, hwidth, hdesign, hreserved, hrev⟩ := idWord_fields s.cfg u
  refine ⟨hkind.trans ?_, hwidth.trans ?_, hdesign, hreserved, hrev, ?_, ?_, fun _ => ⟨rfl, rfl, rfl⟩⟩
  · cases u <;> rfl
  · cases s.cfg.fmt <;> rfl
  · cases u with
    | fir => exact toNat_ofNat_word hfir
    | iir => exact toNat_ofNat_word hnumB
    | win => exact toNat_ofNat_word hwin
  · cases u with
    | fir => rfl
    | iir => exact toNat_ofNat_word hnumA
    | win => rfl

end Sys2Proof.Machine

/-! PROOFS. The FLT registers word by word: LO and HI by the format, the commit actions, and the words read back
(10_state.md R64 to R66; 40_common.md R251 to R254). -/

namespace Sys2Proof.Machine

theorem loWord_eq_setWidth (v : Flt) : loWord v = v.setWidth 32 := (BitVec.setWidth_eq_extractLsb' (by decide)).symm

theorem joinWords_zero (w : Word) : joinWords 0#32 w = w.setWidth 64 := (BitVec.setWidth_eq_append (by decide)).symm

theorem blockReset_bank (s : State) (u : UnitId) :
    (blockReset s).bank u = Bank.reset s.cfg u (drawsAfterReset s u) := by cases u <;> rfl

section FltWrites
variable {c : Params} (u : UnitId) (r : FltReg) (w : Word) (b : Bank)

theorem writeReg_lo_b32 (h : c.fmt = .b32) : writeReg c u (.lo r) w b = commitFlt c u r (w.setWidth 64) b := by
  simp [writeReg, writeLo, h, joinWords_zero]

theorem writeReg_hi_b32 (h : c.fmt = .b32) : writeReg c u (.hi r) w b = b := by simp [writeReg, writeHi, h]

theorem writeReg_lo_b64 (h : c.fmt = .b64) : writeReg c u (.lo r) w b = b.setStage r w := by
  simp [writeReg, writeLo, h]

theorem writeReg_hi_b64 (h : c.fmt = .b64) : writeReg c u (.hi r) w b = commitFlt c u r (w ++ b.stage r) b := by
  simp [writeReg, writeHi, h, joinWords]

/-- The commit of CDATA: BUSY, then INDEX_OOB, then the store. -/
theorem commitFlt_cdata (c : Params) (v : Flt) :
    commitFlt c u .cdata v b =
      if b.busy then b.raise .busy else if c.nc u ≤ b.cidx.toNat then b.raise .indexOob
      else { b with coef := b.coef.set b.cidx.toNat v } := by
  unfold commitFlt cdataStop
  split_ifs <;> rfl

/-- The commit of HDATA: BUSY, then INDEX_OOB, then the store. -/
theorem commitFlt_hdata (c : Params) (v : Flt) :
    commitFlt c u .hdata v b =
      if b.busy then b.raise .busy else if c.nh u ≤ b.hidx.toNat then b.raise .indexOob
      else { b with hist := b.hist.set b.hidx.toNat v } := by
  unfold commitFlt hdataStop
  split_ifs <;> rfl

end FltWrites

section FltReads
variable (s : State) (u : UnitId)

theorem readReg_hi_b32 (r : FltReg) (h : s.cfg.fmt = .b32) : readReg s u (.hi r) = (0#32, s) := by simp [readReg, h]

theorem readReg_hi_b64 (r : FltReg) (h : s.cfg.fmt = .b64) : readReg s u (.hi r) = readFltWord s u r hiWord := by
  simp [readReg, h]

theorem readReg_lo (r : FltReg) : readReg s u (.lo r) = readFltWord s u r (·.setWidth 32) := by
  rw [← funext loWord_eq_setWidth]
  rfl

variable {u} {s} (word : Flt → Word)

theorem readFltWord_dout_of_idle (h : (s.bank u).busy = false) :
    readFltWord s u .dout word = (word (s.bank u).dout, s) := by
  have hpend : (s.bank u).pend = none := by simpa [Bank.busy] using h
  simp [readFltWord, readDout, hpend]

theorem readFltWord_cdata_of_lt (h : (s.bank u).busy = false) (hidx : (s.bank u).cidx.toNat < s.cfg.nc u) :
    readFltWord s u .cdata word = (word ((s.bank u).coef.getD (s.bank u).cidx.toNat fltZero), s) := by
  simp [readFltWord, cdataStop, h, hidx.not_ge]

theorem readFltWord_hdata_of_lt (h : (s.bank u).busy = false) (hidx : (s.bank u).hidx.toNat < s.cfg.nh u) :
    readFltWord s u .hdata word = (word ((s.bank u).hist.getD (s.bank u).hidx.toNat fltZero), s) := by
  simp [readFltWord, hdataStop, h, hidx.not_ge]

end FltReads

/-- Settles O49: the format chooses what each word does; then one case per FLT register. -/
theorem fltRegistersFollowTheirFormat : Obligations.FltRegistersFollowTheirFormat := by
  intro s u w b write failed commit
  have hcommit (r : FltReg) (v : Flt) : commitFlt s.cfg u r v b = commit r v := by
    cases r with
    | cdata => exact commitFlt_cdata u b s.cfg v
    | hdata => exact commitFlt_hdata u b s.cfg v
    | freqA | freqB | din | dout => rfl
  refine ⟨fun h64 => ?_, fun h32 r => ?_, ?_, ?_, fun h64 => ?_⟩
  · have hlo (r : FltReg) : write (.lo r) = b.setStage r w := writeReg_lo_b64 u r w b h64
    have hhi (r : FltReg) : write (.hi r) = commit r (w ++ b.stage r) :=
      (writeReg_hi_b64 u r w b h64).trans (hcommit r _)
    exact ⟨⟨hlo .freqA, hlo .freqB, hlo .din, hlo .cdata, hlo .hdata, hlo .dout⟩,
      hhi .freqA, hhi .freqB, hhi .din, hhi .cdata, hhi .hdata, hhi .dout⟩
  · exact ⟨(writeReg_lo_b32 u r w b h32).trans (hcommit r _), writeReg_hi_b32 u r w b h32, readReg_hi_b32 s u r h32⟩
  · rw [blockReset_bank]
    exact ⟨rfl, rfl, rfl, rfl, rfl⟩
  · have hlo := readReg_lo s u
    exact ⟨hlo .freqA, hlo .freqB, hlo .din, fun hidle =>
      ⟨(hlo .dout).trans (readFltWord_dout_of_idle _ hidle),
        fun hidx => (hlo .cdata).trans (readFltWord_cdata_of_lt _ hidle hidx),
        fun hidx => (hlo .hdata).trans (readFltWord_hdata_of_lt _ hidle hidx)⟩⟩
  · have hhi (r : FltReg) := readReg_hi_b64 s u r h64
    exact ⟨hhi .freqA, hhi .freqB, hhi .din, fun hidle => (hhi .dout).trans (readFltWord_dout_of_idle _ hidle)⟩

end Sys2Proof.Machine

/-! PROOFS. A stored FLT byte by byte (20_memory.md R143). -/

namespace Sys2Proof.Machine

/-- The field v[8j+7 : 8j] is digit j of v in base 256. -/
theorem extractLsb'_byte (v : Flt) (j : Nat) : v.extractLsb' (8 * j) 8 = BitVec.ofNat 8 (v.toNat / 256 ^ j) := by
  rw [BitVec.extractLsb', Nat.shiftRight_eq_div_pow, pow_mul, show 2 ^ 8 = 256 from rfl]

theorem memGet_writeFlt_inside (f : Fmt) (m : Memory) (a j : Nat) (v : Flt) (h : Memory.wf m = true)
    (hj : j < fltBytes f) : memGet (writeFlt f m a v) (a + j) = v.extractLsb' (8 * j) 8 := by
  rw [writeFlt, memGet_writeBytes_inside _ _ _ _ _ h hj, extractLsb'_byte]

/-- Settles O19: the bytes inside the store, the value read back, and the bytes outside it. -/
theorem storedValueIsLittleEndian : Obligations.StoredValueIsLittleEndian := by
  intro f m a v hwf hfits
  exact ⟨fun j hj => memGet_writeFlt_inside f m a j v hwf hj, readFlt_writeFlt_same f m a v hwf hfits,
    fun b hb => memGet_writeFlt_outside f m a b v hb⟩

end Sys2Proof.Machine

/-! PROOFS. Rejected commands and the validation table: an ILLEGAL word or a failed validation is one `rejectIn`
(40_common.md R231, R232); the buffer check case by case and the check each command runs (R240, R241). -/

namespace Sys2Proof.Machine

/-- Settles O3: on an idle unit the rejection of an ILLEGAL word is `rejectIn`, a record update of DONE and ERR. -/
theorem illegalCommandChangesOnlyStatus : Obligations.IllegalCommandChangesOnlyStatus := by
  intro s u w why hidle hdecode
  have hreject : rejectIllegal u s = s.rejectIn u .illegalCmd := by simp [rejectIllegal, hidle]
  rw [writeCmd, hdecode]
  exact congrArg Host.Outcome.next hreject

/-- Settles O6: every command is an `issue`, whose third case rejects with the code of the failed check. -/
theorem validationFailureChangesOnlyStatus : Obligations.ValidationFailureChangesOnlyStatus := by
  intro i s e hidle hlegal hfails
  exact (exec_eq_issue i s).trans (issue_invalid hidle hlegal hfails)

section BufferCheck
variable {f : Fmt} {addr len : Nat} {req : Option Nat}

theorem checkBuffer_nullAddr (ha : addr = 0) : checkBuffer f addr len req = some .nullAddr := if_pos ha

theorem checkBuffer_zeroLen (ha : addr ≠ 0) (hl : len = 0) : checkBuffer f addr len req = some .zeroLen := by
  rw [checkBuffer, if_neg ha, if_pos hl]

theorem checkBuffer_lenMismatch (ha : addr ≠ 0) (hl : len ≠ 0) (hreq : ∃ n, req = some n ∧ len ≠ n) :
    checkBuffer f addr len req = some .lenMismatch := by
  obtain ⟨n, rfl, hn⟩ := hreq
  rw [checkBuffer, if_neg ha, if_neg hl, if_pos]
  exact decide_eq_true hn

/-- With an address and the length it asks for, the check is left with alignment and range. -/
theorem checkBuffer_of_length (ha : addr ≠ 0) (hl : len ≠ 0) (hreq : ∀ n, req = some n → len = n) :
    checkBuffer f addr len req =
      if fltBytes f ∣ addr then if 2 ^ 32 < addr + len * fltBytes f then some .addrRange else none
      else some .misaligned := by
  have hlen : req.any (fun n => decide (len ≠ n)) = false := by
    rw [Option.any_eq_false]
    exact fun n hn => by simp [hreq n hn]
  simp only [checkBuffer, ha, hl, hlen, Nat.dvd_iff_mod_eq_zero, if_false, Bool.false_eq_true, ne_eq, ite_not]

end BufferCheck

section Table
variable {i : Instr} (c : Params) (p : Pend)

/-- PROCESS1, RESET and SETUP_* check nothing. -/
theorem checkOf_eq_none (h : i ∈ [Instr.firProcess1, .firReset, .iirProcess1, .iirReset, .winSetupRect,
    .winSetupHamming, .winSetupHann, .winSetupBlackman]) : checkOf i c p = none := by
  fin_cases h <;> rfl

/-- SET_FACTORS and GET_FACTORS ask for NC(u) elements. -/
theorem checkOf_eq_checkExact_nc (h : i ∈ [Instr.firSetFactors, .iirSetFactors, .winSetFactors, .firGetFactors,
    .iirGetFactors, .winGetFactors]) : checkOf i c p = checkExact (c.nc i.unit) c p := by
  fin_cases h <;> rfl

/-- SET_COEFFS reports what is wrong with its b vector first. -/
theorem checkCoeffs_of_b_invalid {e : ErrCode}
    (hb : checkBuffer c.fmt p.addr.toNat p.len.toNat (some c.numB) = some e) : checkCoeffs c p = some e := by
  simp only [checkCoeffs, hb]

/-- SET_COEFFS once its b vector has passed. -/
theorem checkCoeffs_of_b_valid (hb : checkBuffer c.fmt p.addr.toNat p.len.toNat (some c.numB) = none) :
    checkCoeffs c p =
      if 0 < c.numA then checkBuffer c.fmt p.addr2.toNat p.len2.toNat (some c.numA)
      else if p.len2 = 0#32 then none else some .lenMismatch := by
  have hlen : p.len2.toNat = 0 ↔ p.len2 = 0#32 := BitVec.toNat_inj (y := 0#32)
  simp only [checkCoeffs, hb, ne_eq, ite_not, hlen]

/-- The two cutoffs of DESIGN_BANDPASS share one error code. -/
theorem checkBand_eq :
    checkBand c p =
      if fltLt c.fmt p.fa p.fb = false then some .freqOrder
      else if freqValid c.fmt p.fb && freqValid c.fmt p.fa then none else some .freqRange := by
  unfold checkBand
  cases fltLt c.fmt p.fa p.fb
  · rfl
  · cases freqValid c.fmt p.fb <;> cases freqValid c.fmt p.fa <;> rfl

end Table

/-- Settles O46: the buffer check case by case, then the row of the table each command belongs to. -/
theorem validationFollowsTheTable : Obligations.ValidationFollowsTheTable := by
  refine ⟨fun f addr len req => ⟨checkBuffer_nullAddr, checkBuffer_zeroLen, checkBuffer_lenMismatch, ?_, ?_, ?_⟩,
    fun i s => ⟨?_, ?_, checkOf_eq_none _ _, checkOf_eq_checkExact_nc _ _, ?_, ?_, ?_⟩⟩
  · intro ha hl hreq halign
    rw [checkBuffer_of_length ha hl hreq, if_neg halign]
  · intro ha hl hreq halign hrange
    rw [checkBuffer_of_length ha hl hreq, if_pos halign, if_pos hrange]
  · intro ha hl hreq halign hrange
    rw [checkBuffer_of_length ha hl hreq, if_pos halign, if_neg hrange.not_gt]
  · rintro (rfl | rfl) <;> rfl
  · rintro rfl; rfl
  · rintro rfl
    split
    · next e hb => exact checkCoeffs_of_b_invalid s.cfg (s.latched .iirSetCoeffs) hb
    · next hb => exact checkCoeffs_of_b_valid s.cfg (s.latched .iirSetCoeffs) hb
  · rintro (rfl | rfl) <;> rfl
  · rintro rfl
    exact checkBand_eq s.cfg (s.latched .firDesignBandpass)

end Sys2Proof.Machine

/-! PROOFS. A magnitude as a significand and a shift: rounding a representable value is exact, and doubling a value below
one half stays representable (00_scope.md R18, 42_fir_design.md R356). -/

namespace Sys2Proof.Machine

section Representable
variable (f : Fmt)

/-- The value of an encoding written as a shift d and a significand s of at most fracBits + 1 bits; a shifted significand
has its hidden bit. The exponent field is d + 1 with the hidden bit, and 0 without. -/
theorem magUnits_significand {d s : Nat} (hs : s < 2 ^ (fracBits f + 1)) (hd : d = 0 ∨ 2 ^ fracBits f ≤ s) :
    magUnits f (d * 2 ^ fracBits f + s) = s * 2 ^ d := by
  rw [Nat.pow_succ] at hs
  by_cases hhid : 2 ^ fracBits f ≤ s
  · obtain ⟨r, rfl⟩ := Nat.exists_eq_add_of_le hhid
    rw [← Nat.add_assoc, ← Nat.succ_mul, magUnits_mul_add f _ r (by omega), if_neg d.succ_ne_zero, Nat.succ_sub_one]
  · obtain rfl := hd.resolve_right hhid
    rw [magUnits_mul_add f 0 s (by omega), if_pos rfl, pow_zero, Nat.mul_one]

/-- Every magnitude encoding has a shift and a significand. -/
theorem exists_significand (m : Nat) :
    ∃ d s, s < 2 ^ (fracBits f + 1) ∧ (d = 0 ∨ 2 ^ fracBits f ≤ s) ∧ m = d * 2 ^ fracBits f + s := by
  have hr : m % 2 ^ fracBits f < 2 ^ fracBits f := Nat.mod_lt _ (Nat.two_pow_pos _)
  have hm := Nat.div_add_mod' m (2 ^ fracBits f)
  rw [Nat.pow_succ]
  cases he : m / 2 ^ fracBits f with
  | zero => rw [he] at hm; exact ⟨0, m, by omega, .inl rfl, by omega⟩
  | succ d =>
    rw [he, Nat.succ_mul] at hm
    exact ⟨d, 2 ^ fracBits f + m % 2 ^ fracBits f, by omega, .inr (by omega), by omega⟩

theorem roundEven_mul_left (n : Nat) {den : Nat} (h : 0 < den) : roundEven (n * den) den = n := by
  rw [roundEven, Nat.mul_mod_left, Nat.mul_zero, if_pos h, Nat.mul_div_cancel n h]

/-- A significand in normal form loses no more than its shift. -/
theorem dropBits_significand {d s den : Nat} (hden : 0 < den) (hs : s < 2 ^ (fracBits f + 1))
    (hd : d = 0 ∨ 2 ^ fracBits f ≤ s) : dropBits f (s * 2 ^ d * den) den = d := by
  rw [dropBits, Nat.mul_div_cancel _ hden]
  by_cases hhid : 2 ^ fracBits f ≤ s
  · have hpos : s * 2 ^ d ≠ 0 := (Nat.mul_pos ((Nat.two_pow_pos _).trans_le hhid) (Nat.two_pow_pos d)).ne'
    have hlog : Nat.log2 (s * 2 ^ d) = fracBits f + d := by
      rw [Nat.log2_eq_iff hpos, Nat.add_right_comm, pow_add, pow_add _ _ d]
      exact ⟨Nat.mul_le_mul_right _ hhid, Nat.mul_lt_mul_of_pos_right hs (Nat.two_pow_pos d)⟩
    rw [hlog, Nat.add_sub_cancel_left]
  · obtain rfl := hd.resolve_right hhid
    rw [pow_zero, Nat.mul_one, Nat.log2_eq_log_two]
    exact Nat.sub_eq_zero_of_le (Nat.le_of_lt_succ (Nat.log_lt_of_lt_pow' (Nat.succ_ne_zero _) hs))

/-- Rounding a representable value is exact. -/
theorem roundMag_magUnits {m den : Nat} (hden : 0 < den) (hm : m ≤ infMag f) :
    roundMag f (magUnits f m * den) den = m := by
  obtain ⟨d, s, hs, hd, rfl⟩ := exists_significand f m
  have hshift : s * 2 ^ d * den = s * (den * 2 ^ d) := by ring
  rw [magUnits_significand f hs hd, roundMag, dropBits_significand f hden hs hd, hshift,
    roundEven_mul_left s (Nat.mul_pos hden (Nat.two_pow_pos d)), Nat.min_eq_right hm]

/-- Twice a representable value is representable when the exponent range is left aside: the next exponent, or a
subnormal's fraction doubled. -/
theorem exists_magUnits_double (m : Nat) : ∃ m', magUnits f m' = 2 * magUnits f m := by
  obtain ⟨d, s, hs, hd, rfl⟩ := exists_significand f m
  rw [magUnits_significand f hs hd]
  by_cases hhid : 2 ^ fracBits f ≤ s
  · exact ⟨(d + 1) * 2 ^ fracBits f + s, by rw [magUnits_significand f hs (.inr hhid)]; ring⟩
  · obtain rfl := hd.resolve_right hhid
    have hdbl : 2 * s < 2 ^ (fracBits f + 1) := by rw [Nat.pow_succ]; omega
    exact ⟨0 * 2 ^ fracBits f + 2 * s, by rw [magUnits_significand f hdbl (.inl rfl)]; ring⟩

/-- The encodings of the powers of two. -/
theorem magUnits_two_pow (d : Nat) : magUnits f (d * 2 ^ fracBits f + 2 ^ fracBits f) = 2 ^ (fracBits f + d) := by
  rw [magUnits_significand f (Nat.pow_lt_pow_succ (by decide)) (.inr le_rfl), pow_add]

theorem fltUnits_of_two_pow {x : Flt} {k : Nat} (hk : fracBits f ≤ k)
    (hmag : fltMag f x = (k - fracBits f) * 2 ^ fracBits f + 2 ^ fracBits f) : fltUnits f x = 2 ^ k := by
  rw [fltUnits, hmag, magUnits_two_pow, Nat.add_sub_cancel' hk]

theorem fltUnits_fltHalf : fltUnits f (fltHalf f) = 2 ^ (quantumExp f - 1) :=
  fltUnits_of_two_pow f (by cases f <;> decide) (by cases f <;> rfl)

theorem fltUnits_fltOne : fltUnits f (fltOne f) = 2 ^ quantumExp f :=
  fltUnits_of_two_pow f (by cases f <;> decide) (by cases f <;> rfl)

theorem fltUnits_fltTwo : fltUnits f (fltTwo f) = 2 ^ (quantumExp f + 1) :=
  fltUnits_of_two_pow f (by cases f <;> decide) (by cases f <;> rfl)

end Representable

end Sys2Proof.Machine

/-! PROOFS. The cutoffs of the design commands: the open interval (0, 0.5), the exact centre tap and the one-tap low-pass
(42_fir_design.md R352, R356). -/

namespace Sys2Proof.Machine

section Cutoffs
variable (f : Fmt)

theorem isFinite_of_not_nan_inf {x : Flt} (hnan : isNaN f x = false) (hinf : isInf f x = false) : isFinite f x = true := by
  simp only [isNaN, isInf, isFinite, decide_eq_true_eq, decide_eq_false_iff_not] at *
  omega

theorem isFinite_fltZero : isFinite f fltZero = true := by cases f <;> decide

theorem isFinite_fltHalf : isFinite f (fltHalf f) = true := by cases f <;> decide

theorem isFinite_fltTwo : isFinite f (fltTwo f) = true := by cases f <;> decide

theorem signedUnits_of_nonneg {x : Flt} (h : fltNeg f x = false) : signedUnits f x = fltUnits f x := by simp [signedUnits, h]

theorem signedUnits_fltZero : signedUnits f fltZero = 0 := signedUnits_of_isZero f (isZero_packFlt_zero f false)

theorem signedUnits_fltHalf : signedUnits f (fltHalf f) = 2 ^ (quantumExp f - 1) := by
  rw [signedUnits_of_nonneg f (by cases f <;> decide), fltUnits_fltHalf, Nat.cast_pow, Nat.cast_ofNat]

theorem fltNeg_of_signedUnits_pos {x : Flt} (h : 0 < signedUnits f x) : fltNeg f x = false := by
  cases hneg : fltNeg f x with
  | false => rfl
  | true =>
    rw [signedUnits, if_pos hneg] at h
    omega

/-- On a finite value the two comparisons of freq_valid are those of its quanta with 0 and one half. -/
theorem freqValid_iff_of_isFinite {x : Flt} (h : isFinite f x = true) :
    freqValid f x = true ↔ 0 < signedUnits f x ∧ signedUnits f x < (2 : Int) ^ (quantumExp f - 1) := by
  obtain ⟨hzero, -⟩ := finite_compare_finite f (isFinite_fltZero f) h
  obtain ⟨hhalf, -⟩ := finite_compare_finite f h (isFinite_fltHalf f)
  rw [freqValid, Bool.and_eq_true, hzero, hhalf, signedUnits_fltZero, signedUnits_fltHalf]

theorem freqValid_of_isNaN {x : Flt} (h : isNaN f x = true) : freqValid f x = false := by
  rw [freqValid, (compare_of_isNaN f (by rw [h, Bool.or_true])).1, Bool.false_and]

/-- -∞ is not above 0 and +∞ is not below one half. -/
theorem freqValid_of_isInf {x : Flt} (h : isInf f x = true) : freqValid f x = false := by
  obtain ⟨hzero, -⟩ := finite_compare_inf f (isFinite_fltZero f) h
  obtain ⟨-, -, hhalf, -⟩ := finite_compare_inf f (isFinite_fltHalf f) h
  rw [freqValid, hzero, hhalf, Bool.not_and_self]

theorem isFinite_of_freqValid {x : Flt} (h : freqValid f x = true) : isFinite f x = true := by
  refine isFinite_of_not_nan_inf f (Bool.eq_false_iff.mpr fun hnan => ?_) (Bool.eq_false_iff.mpr fun hinf => ?_)
  · exact Bool.false_ne_true ((freqValid_of_isNaN f hnan).symm.trans h)
  · exact Bool.false_ne_true ((freqValid_of_isInf f hinf).symm.trans h)

theorem freqValid_iff (x : Flt) :
    freqValid f x = true ↔
      isFinite f x = true ∧ 0 < signedUnits f x ∧ signedUnits f x < (2 : Int) ^ (quantumExp f - 1) :=
  ⟨fun h => ⟨isFinite_of_freqValid f h, (freqValid_iff_of_isFinite f (isFinite_of_freqValid f h)).mp h⟩,
    fun ⟨hfin, hpos⟩ => (freqValid_iff_of_isFinite f hfin).mpr hpos⟩

theorem freqValid_of_isZero {x : Flt} (h : isZero f x = true) : freqValid f x = false := by
  rw [Bool.eq_false_iff, ne_eq, freqValid_iff, signedUnits_of_isZero f h]
  exact fun ⟨_, hpos, _⟩ => hpos.false

theorem freqValid_fltHalf : freqValid f (fltHalf f) = false := by
  rw [Bool.eq_false_iff, ne_eq, freqValid_iff, signedUnits_fltHalf]
  exact fun ⟨_, _, hlt⟩ => hlt.false

/-- A product of finite operands is the rounded product of their quanta. -/
theorem fmul_of_isFinite (q : BitVec 64) {a b : Flt} (ha : isFinite f a = true) (hb : isFinite f b = true) :
    fmul f q a b =
      packFlt f (fltNeg f a != fltNeg f b) (roundMag f (fltUnits f a * fltUnits f b) (2 ^ quantumExp f)) := by
  obtain ⟨hnanA, hinfA⟩ := not_nan_inf_of_finite f a ha
  obtain ⟨hnanB, hinfB⟩ := not_nan_inf_of_finite f b hb
  simp [fmul, hnanA, hinfA, hnanB, hinfB]

/-- Twice a valid cutoff is below ONE, so its encoding is finite. -/
theorem exists_double_of_freqValid {x : Flt} (h : freqValid f x = true) :
    ∃ m, m < infMag f ∧ magUnits f m = 2 * fltUnits f x := by
  obtain ⟨-, hpos, hhalf⟩ := (freqValid_iff f x).mp h
  obtain ⟨m, hm⟩ := exists_magUnits_double f (fltMag f x)
  rw [signedUnits_of_nonneg f (fltNeg_of_signedUnits_pos f hpos)] at hhalf
  have hone : magUnits f m < magUnits f (fltMag f (fltOne f)) := calc
    magUnits f m = 2 * fltUnits f x := hm
    _ < 2 * 2 ^ (quantumExp f - 1) := Nat.mul_lt_mul_of_pos_left (by exact_mod_cast hhalf) Nat.two_pos
    _ = 2 ^ quantumExp f := mul_pow_sub_one (by cases f <;> decide) 2
    _ = fltUnits f (fltOne f) := (fltUnits_fltOne f).symm
  exact ⟨m, ((magUnits_strictMono f).lt_iff_lt.mp hone).trans (by cases f <;> decide), hm⟩

/-- FMUL(TWO, x) of a valid cutoff x is the encoding of exactly 2x. -/
theorem fmul_fltTwo_exact (q : BitVec 64) {x : Flt} (h : freqValid f x = true) :
    isFinite f (fmul f q (fltTwo f) x) = true ∧
      signedUnits f (fmul f q (fltTwo f) x) = 2 * signedUnits f x := by
  obtain ⟨hfin, hpos, -⟩ := (freqValid_iff f x).mp h
  have hneg := fltNeg_of_signedUnits_pos f hpos
  have htwo : fltNeg f (fltTwo f) = false := by cases f <;> decide
  obtain ⟨m, hlt, hm⟩ := exists_double_of_freqValid f h
  have hsw := hlt.trans (infMag_lt f)
  have hprod : fltUnits f (fltTwo f) * fltUnits f x = magUnits f m * 2 ^ quantumExp f := by
    rw [fltUnits_fltTwo, hm]; ring
  have hmul : fmul f q (fltTwo f) x = packFlt f false m := by
    rw [fmul_of_isFinite f q (isFinite_fltTwo f) hfin, hprod, roundMag_magUnits f (Nat.two_pow_pos _) hlt.le, htwo, hneg]
    rfl
  rw [hmul, signedUnits_of_nonneg f (fltNeg_packFlt f false m hsw), signedUnits_of_nonneg f hneg, isFinite, fltUnits,
    fltMag_packFlt f false m hsw, hm]
  exact ⟨decide_eq_true hlt, by push_cast; rfl⟩

/-- The first addition of an accumulation keeps a positive term as it is. -/
theorem fadd_fltZero_left (q : BitVec 64) {x : Flt} (hfit : Fits f x) (hfin : isFinite f x = true)
    (hpos : 0 < signedUnits f x) : fadd f q fltZero x = x := by
  have hneg := fltNeg_of_signedUnits_pos f hpos
  have hmag : fltMag f x ≤ infMag f := (of_decide_eq_true hfin).le
  have hexact : roundMag f (fltUnits f x) 1 = fltMag f x := by
    rw [← Nat.mul_one (fltUnits f x)]
    exact roundMag_magUnits f Nat.one_pos hmag
  rw [fadd_of_isFinite f q (isFinite_fltZero f) hfin, signedUnits_fltZero, Int.zero_add, roundSum,
    if_neg hpos.ne', decide_eq_false hpos.not_gt, signedUnits_of_nonneg f hneg, Int.natAbs_natCast, hexact,
    ← hneg, packFlt_eta f x hfit]

/-- A finite positive value divided by itself is ONE. -/
theorem fdiv_self_of_pos (q : BitVec 64) {x : Flt} (hfin : isFinite f x = true) (hpos : 0 < signedUnits f x) :
    fdiv f q x x = fltOne f := by
  obtain ⟨hnan, hinf⟩ := not_nan_inf_of_finite f x hfin
  have hz : isZero f x = false := by
    rw [Bool.eq_false_iff]
    exact fun hzero => hpos.ne' (signedUnits_of_isZero f hzero)
  have hunits : 0 < fltUnits f x := by
    rwa [signedUnits_of_nonneg f (fltNeg_of_signedUnits_pos f hpos), Int.natCast_pos] at hpos
  have hround : roundMag f (fltUnits f x * 2 ^ quantumExp f) (fltUnits f x) = fltMag f (fltOne f) := by
    rw [Nat.mul_comm, ← fltUnits_fltOne, fltUnits.eq_def f (fltOne f), roundMag_magUnits f hunits (by cases f <;> decide)]
  simp only [fdiv, hnan, hinf, hz, hround, Bool.or_self, Bool.false_eq_true, if_false, bne_self_eq_false]
  cases f <;> rfl

/-- The centre tap of the ideal taps is FMUL(TWO, x). -/
theorem sincTaps_centreTap (q : Nat → BitVec 64) {size : Nat} (x : Flt) (h : 1 ≤ size) :
    (sincTaps f q size x).getD (centreTap size) fltZero = fmul f (q (5 * centreTap size)) (fltTwo f) x := by
  have hlt : centreTap size < size := by unfold centreTap; omega
  simp [sincTaps, List.getD_eq_getElem?_getD, List.getElem?_range hlt, sincTap]

/-- A single positive tap is its own sum. -/
theorem normalizeTaps_singleton (q : Nat → BitVec 64) {tap : Flt} (hfit : Fits f tap) (hfin : isFinite f tap = true)
    (hpos : 0 < signedUnits f tap) : normalizeTaps f q [tap] = [fltOne f] := calc
  normalizeTaps f q [tap] = [fdiv f (q 1) tap (fadd f (q 0) fltZero tap)] := rfl
  _ = [fltOne f] := by rw [fadd_fltZero_left f (q 0) hfit hfin hpos, fdiv_self_of_pos f (q 1) hfin hpos]

/-- The only tap is the centre, where SIN does not appear. -/
theorem lowpass_one (q : Nat → BitVec 64) {x : Flt} (h : freqValid f x = true) : lowpass f q 1 x = [fltOne f] := by
  obtain ⟨-, hx, -⟩ := (freqValid_iff f x).mp h
  obtain ⟨hfin, hunits⟩ := fmul_fltTwo_exact f (q 0) h
  have hpos : 0 < signedUnits f (fmul f (q 0) (fltTwo f) x) := by omega
  have htaps : sincTaps f q 1 x = [fmul f (q 0) (fltTwo f) x] := rfl
  rw [lowpass, htaps, normalizeTaps_singleton f _ (fmul_fits f (q 0) (fltTwo f) x) hfin hpos]

end Cutoffs

/-- Settles O31: the comparisons on a finite value, and the values they exclude. -/
theorem freqValidIsTheOpenInterval : Obligations.FreqValidIsTheOpenInterval := by
  intro f x
  refine ⟨rfl, freqValid_iff f x, ?_⟩
  rintro (hzero | hinf | hnan | rfl)
  · exact freqValid_of_isZero f hzero
  · exact freqValid_of_isInf f hinf
  · exact freqValid_of_isNaN f hnan
  · exact freqValid_fltHalf f

/-- Settles O30: 2x is representable, so FMUL(TWO, x) is exact; a single tap is its own sum. -/
theorem lowpassOfOneTapIsOne : Obligations.LowpassOfOneTapIsOne := by
  intro f q x _ hvalid
  exact ⟨fun q0 => fmul_fltTwo_exact f q0 hvalid, fun size hsize => ⟨_, sincTaps_centreTap f q x hsize⟩,
    lowpass_one f q hvalid⟩

end Sys2Proof.Machine

/-! PROOFS. DESIGN_BANDPASS's checks in their order (42_fir_design.md R381). -/

namespace Sys2Proof.Machine

theorem fltLt_irrefl (f : Fmt) (x : Flt) : fltLt f x x = false := by simp [fltLt]

section Band
variable {s : State}

/-- What DESIGN_BANDPASS checks of an idle FIR: the two frequency registers. -/
theorem checkOf_firDesignBandpass :
    checkOf .firDesignBandpass s.cfg (s.latched .firDesignBandpass) =
      if fltLt s.cfg.fmt s.fir.freqA s.fir.freqB = false then some .freqOrder
      else if freqValid s.cfg.fmt s.fir.freqB && freqValid s.cfg.fmt s.fir.freqA then none else some .freqRange :=
  checkBand_eq s.cfg (s.latched .firDesignBandpass)

/-- A failed check of DESIGN_BANDPASS is a rejection, which writes DONE and ERR alone. -/
theorem exec_firDesignBandpass_of_check {e : ErrCode} (hidle : s.fir.busy = false) (hdesign : s.cfg.hasDesign = true)
    (hfails : checkOf .firDesignBandpass s.cfg (s.latched .firDesignBandpass) = some e) :
    exec .firDesignBandpass s = .next { s with fir := { s.fir with done := true, err := some (s.fir.err.getD e) } } :=
  validationFailureChangesOnlyStatus .firDesignBandpass s e hidle (by simp [Instr.wf, hdesign]) hfails

end Band

/-- Settles O32: cutoffs out of order, which a NaN and equal cutoffs are, then a cutoff out of range. -/
theorem bandpassValidationOrder : Obligations.BandpassValidationOrder := by
  intro s hidle hdesign f rejected
  have horder (h : fltLt f s.fir.freqA s.fir.freqB = false) : exec .firDesignBandpass s = rejected .freqOrder :=
    exec_firDesignBandpass_of_check hidle hdesign (by rw [checkOf_firDesignBandpass, if_pos h])
  have hrange (hlt : fltLt f s.fir.freqA s.fir.freqB = true)
      (h : (freqValid f s.fir.freqB && freqValid f s.fir.freqA) = false) :
      exec .firDesignBandpass s = rejected .freqRange :=
    exec_firDesignBandpass_of_check hidle hdesign (by
      rw [checkOf_firDesignBandpass, if_neg (by simp [f, hlt]), if_neg (by simp [f, h])])
  refine ⟨horder, fun hnan => horder (compare_of_isNaN f hnan).1, fun heq => horder ?_, fun hlt hhigh => hrange hlt ?_,
    fun hlt hhigh hlow => hrange hlt ?_, fun hlt hhigh hlow => ?_⟩
  · rw [heq, fltLt_irrefl]
  · rw [hhigh, Bool.false_and]
  · rw [hlow, Bool.and_false]
  · rw [checkOf_firDesignBandpass, if_neg (by simp [f, hlt]), if_pos (by simp [f, hhigh, hlow])]

end Sys2Proof.Machine

/-! PROOFS. SET_COEFFS's checks in their order (43_iir.md R421). -/

namespace Sys2Proof.Machine

/-- Settles O37: a failing b decides the check; after a sound b, NUMA selects the check of a or the emptiness of a. -/
theorem setCoeffsValidationOrder : Obligations.SetCoeffsValidationOrder := by
  intro c p
  refine ⟨fun e hb => checkCoeffs_of_b_invalid c p hb, fun hb hpos => ?_, fun hb hzero => ?_⟩
  · exact (checkCoeffs_of_b_valid c p hb).trans (if_pos hpos)
  · exact (checkCoeffs_of_b_valid c p hb).trans (if_neg hzero.not_gt)

end Sys2Proof.Machine

/-! PROOFS. The interrupt: the output is raised by some bank, and no bank raises it in the reset state
(60_exceptions.md R510). -/

namespace Sys2Proof.Machine

theorem Bank.irq_iff (b : Bank) :
    b.irq = true ↔ (b.doneIe = true ∧ b.done = true) ∨ (b.errIe = true ∧ b.err.isSome = true) := by
  simp only [Bank.irq, Bool.or_eq_true, Bool.and_eq_true]

theorem Bank.reset_irq (c : Params) (u : UnitId) (draws : Nat) : (Bank.reset c u draws).irq = false := rfl

theorem State.irq_iff_exists_bank (s : State) : s.irq = true ↔ ∃ u, (s.bank u).irq = true := by
  simp only [State.irq, Bool.or_eq_true]
  constructor
  · rintro ((hfir | hiir) | hwin)
    exacts [⟨.fir, hfir⟩, ⟨.iir, hiir⟩, ⟨.win, hwin⟩]
  · rintro ⟨u, hu⟩
    cases u with
    | fir => exact .inl (.inl hu)
    | iir => exact .inl (.inr hu)
    | win => exact .inr hu

/-- A state whose banks are all fresh from reset, whatever their counters, does not interrupt. -/
theorem State.irq_eq_false_of_reset {s : State} {c : Params} {draws : UnitId → Nat}
    (h : ∀ u, s.bank u = Bank.reset c u (draws u)) : s.irq = false := by
  rw [Bool.eq_false_iff, Ne, State.irq_iff_exists_bank]
  rintro ⟨u, hu⟩
  rw [h u, Bank.reset_irq] at hu
  exact Bool.false_ne_true hu

theorem State.resetOf_bank (c : Params) (u : UnitId) : (State.resetOf c).bank u = Bank.reset c u 0 := by
  cases u <;> rfl

/-- Settles O51: the output is the disjunction over the banks, and a reset bank has its enables and flags clear. -/
theorem interruptFollowsStatus : Obligations.InterruptFollowsStatus := by
  intro s
  refine ⟨?_, State.irq_eq_false_of_reset (blockReset_bank s),
    State.irq_eq_false_of_reset (State.resetOf_bank Params.default)⟩
  simp only [State.irq_iff_exists_bank, Bank.irq_iff]

end Sys2Proof.Machine

/-! PROOFS. What the engines keep: a property of a bank survives an engine that survives the updates the engine is made of,
and memory stays canonical and inside its space (10_state.md R50 to R58; 20_memory.md R142). -/

namespace Sys2Proof.Machine

/-! ### A bank through an engine -/

/-- The commands that write coefficients. -/
def coefWriters : List Instr :=
  [.firSetFactors, .firDesignLowpass, .firDesignHighpass, .firDesignBandpass, .iirReset, .iirSetFactors, .iirSetCoeffs,
    .winSetFactors, .winSetupRect, .winSetupHamming, .winSetupHann, .winSetupBlackman]

/-- The commands that write the history. -/
def histWriters : List Instr := [.firProcess, .firProcess1, .firReset, .iirProcess, .iirProcess1, .iirReset]

/-- The commands that move the head. -/
def headWriters : List Instr := [.firProcess, .firProcess1, .firReset]

/-- The commands that write DOUT. -/
def doutWriters : List Instr := [.firProcess1, .iirProcess1]

/-- A vector of n encodings of the format. -/
structure Sound (f : Fmt) (n : Nat) (v : List Flt) : Prop where
  length : v.length = n
  fits   : ∀ x ∈ v, Fits f x

/-- A property of a bank that every update command i's engine makes keeps: PROG, the counter and the error record by any
engine; coefficients, history, head and DOUT by their writers, with values as sound as those before. -/
structure EngineKeeps (c : Params) (i : Instr) (p : Pend) (P : Bank → Prop) : Prop where
  prog     : ∀ {b k}, P b → P (b.setProg k)
  draws    : ∀ {b n}, P b → P (b.useDraws n)
  busError : ∀ {b a}, P b → P (b.busError a)
  coef     : i ∈ coefWriters → ∀ {b v}, Sound c.fmt (c.nc i.unit) v → P b → P { b with coef := v }
  hist     : i ∈ histWriters → ∀ {b v}, (Fits c.fmt p.din → Sound c.fmt (c.nh i.unit) b.hist → Sound c.fmt (c.nh i.unit) v) →
    P b → P { b with hist := v }
  head     : i ∈ headWriters → ∀ {b k}, (0 < c.firSize → k < c.firSize) → P b → P { b with head := k }
  dout     : i ∈ doutWriters → ∀ {b v}, Fits c.fmt v → P b → P { b with dout := v }

section Loops
variable {f : Fmt} {u : UnitId} {base : Nat} {fail : Option Nat} {P : Bank → Prop}
  (hprog : ∀ {b k}, P b → P (b.setProg k)) (hdraws : ∀ {b n}, P b → P (b.useDraws n))
  (hbus : ∀ {b a}, P b → P (b.busError a))
include hprog hdraws hbus

theorem processLoop_keeps {sample : Bank → Flt → Nat → Bank × Flt}
    (hs : ∀ {b x k}, Fits f x → P b → P (sample b x k).1) (n k : Nat) (b : Bank) (m : Memory) (h : P b) :
    P (processLoop f u sample base fail n k b m).1 := by
  induction n generalizing k b m with
  | zero => exact h
  | succ n ih =>
    have hx := hs (k := k) (readFlt_lt f m (elemAddr f base k)) h
    unfold processLoop
    dsimp only
    split_ifs
    · exact hbus h
    · exact hbus (hdraws hx)
    · exact ih _ _ _ (hprog hx)

theorem storeLoop_keeps (vs : List Flt) (k : Nat) (b : Bank) (m : Memory) (h : P b) :
    P (storeLoop f u base fail vs k b m).1 := by
  induction vs generalizing k b m with
  | nil => exact h
  | cons v vs ih =>
    unfold storeLoop
    dsimp only
    split_ifs
    · exact hbus (hdraws h)
    · exact ih _ _ _ (hprog h)

end Loops

/-! Sound vectors -/

theorem sound_replicate {f : Fmt} {x : Flt} (n : Nat) (hx : Fits f x) : Sound f n (List.replicate n x) :=
  ⟨List.length_replicate, fun _ hy => List.eq_of_mem_replicate hy ▸ hx⟩

theorem sound_map_range {f : Fmt} {g : Nat → Flt} (n : Nat) (hg : ∀ k, Fits f (g k)) :
    Sound f n ((List.range n).map g) := by
  refine ⟨by simp, fun x hx => ?_⟩
  obtain ⟨k, -, rfl⟩ := List.mem_map.mp hx
  exact hg k

theorem Sound.set {f : Fmt} {n : Nat} {v : List Flt} {x : Flt} (h : Sound f n v) (k : Nat) (hx : Fits f x) :
    Sound f n (v.set k x) := by
  refine ⟨by rw [List.length_set, h.length], fun y hy => ?_⟩
  rcases List.mem_or_eq_of_mem_set hy with hy | rfl
  · exact h.fits y hy
  · exact hx

theorem Sound.append {f : Fmt} {n k : Nat} {v w : List Flt} (hv : Sound f n v) (hw : Sound f k w) :
    Sound f (n + k) (v ++ w) := by
  refine ⟨by rw [List.length_append, hv.length, hw.length], fun x hx => ?_⟩
  rcases List.mem_append.mp hx with hx | hx
  · exact hv.fits x hx
  · exact hw.fits x hx

theorem Sound.take {f : Fmt} {n k : Nat} {v : List Flt} (h : Sound f (n + k) v) : Sound f n (v.take n) :=
  ⟨by rw [List.length_take, h.length]; omega, fun x hx => h.fits x (List.mem_of_mem_take hx)⟩

theorem Sound.drop {f : Fmt} {n k : Nat} {v : List Flt} (h : Sound f (n + k) v) : Sound f k (v.drop n) :=
  ⟨by rw [List.length_drop, h.length]; omega, fun x hx => h.fits x (List.mem_of_mem_drop hx)⟩

theorem Sound.shiftIn {f : Fmt} {n : Nat} {v : List Flt} {x : Flt} (h : Sound f n v) (hx : Fits f x) :
    Sound f n (shiftIn n x v) := by
  have hcons : Sound f (n + 1) (x :: v) := ⟨by rw [List.length_cons, h.length], by simpa [hx] using h.fits⟩
  exact hcons.take

theorem sound_readVector (f : Fmt) (m : Memory) (base n : Nat) : Sound f n (readVector f m base n) :=
  sound_map_range n fun _ => readFlt_lt f m _

theorem romEntry_fits (t : Table) (f : Fmt) (size n : Nat) : Fits f (romEntry t f size n) :=
  packFlt_fits _ _ _ (roundMag_lt _ _ _)

theorem lowpass_length (f : Fmt) (q : Nat → BitVec 64) (size : Nat) (x : Flt) : (lowpass f q size x).length = size := by
  simp [lowpass, normalizeTaps, sincTaps]

theorem sound_lowpass (f : Fmt) (q : Nat → BitVec 64) (size : Nat) (x : Flt) : Sound f size (lowpass f q size x) := by
  refine ⟨lowpass_length f q size x, fun y hy => ?_⟩
  obtain ⟨n, -, rfl⟩ := List.mem_map.mp hy
  exact fdiv_fits _ _ _ _

theorem sound_highpass (f : Fmt) (q : Nat → BitVec 64) (size : Nat) (x : Flt) : Sound f size (highpass f q size x) := by
  have hneg : Sound f size ((lowpass f q size x).map (fneg f)) := by
    refine ⟨by rw [List.length_map, lowpass_length], fun y hy => ?_⟩
    obtain ⟨z, -, rfl⟩ := List.mem_map.mp hy
    exact fneg_fits f z
  exact hneg.set _ (fadd_fits _ _ _ _)

theorem sound_stepFir {c : Params} {b : Bank} {x : Flt} (h : Sound c.fmt (c.nh .fir) b.hist) (hx : Fits c.fmt x) :
    Sound c.fmt (c.nh .fir) (stepFir c b x).1.hist := h.set _ hx

theorem sound_stepIir {c : Params} {b : Bank} {x : Flt} (h : Sound c.fmt (c.nh .iir) b.hist) (hx : Fits c.fmt x) :
    Sound c.fmt (c.nh .iir) (stepIir c b x).1.hist :=
  (h.take.shiftIn hx).append (h.drop.shiftIn (stepIir_fits c b x))

section Engines
variable {c : Params} {i : Instr} {p : Pend} {P : Bank → Prop} (h : EngineKeeps c i p P)
include h

theorem EngineKeeps.processLoop {f : Fmt} {u : UnitId} {base : Nat} {fail : Option Nat}
    {sample : Bank → Flt → Nat → Bank × Flt} (hs : ∀ {b x k}, Fits f x → P b → P (sample b x k).1) {n k : Nat} {b : Bank}
    {m : Memory} (hb : P b) : P (processLoop f u sample base fail n k b m).1 :=
  processLoop_keeps h.prog h.draws h.busError hs n k b m hb

theorem EngineKeeps.getFactors {f : Fmt} {u : UnitId} {n : Nat} {fail : Option Nat} {b : Bank} {m : Memory} (hb : P b) :
    P (getFactors f u n p fail b m).1 := storeLoop_keeps h.prog h.draws h.busError _ _ _ _ hb

theorem EngineKeeps.setFactors {n : Nat} {fail : Option Nat} {b : Bank} {m : Memory} (hi : i ∈ coefWriters)
    (hn : n = c.nc i.unit) (hb : P b) : P (setFactors c.fmt n p fail b m).1 := by
  subst hn
  have hload := h.prog (k := c.nc i.unit) (h.coef hi (sound_readVector c.fmt m p.addr.toNat _) hb)
  unfold Machine.setFactors
  split
  · split_ifs
    · exact h.busError (h.prog hb)
    · exact hload
  · exact hload

theorem EngineKeeps.setupTable {t : Table} {b : Bank} (hi : i ∈ coefWriters) (hn : i.unit = .win) (hb : P b) :
    P (setupTable t c b) := by
  unfold Machine.setupTable
  split_ifs
  · exact hb
  · exact h.coef hi (hn ▸ sound_map_range _ fun _ => romEntry_fits _ _ _ _) hb

/-- One FIR sample writes the history, the head and the counter. -/
theorem EngineKeeps.stepFir {b : Bank} {x : Flt} (hi : i ∈ headWriters) (hhist : i ∈ histWriters) (hu : i.unit = .fir)
    (hx : Fits c.fmt p.din → Fits c.fmt x) (hb : P b) : P (stepFir c b x).1 :=
  h.draws (n := 2 * c.firSize) (h.head hi (fun hpos => Nat.mod_lt _ hpos)
    (h.hist hhist (fun hd hs => hu ▸ sound_stepFir (hu ▸ hs) (hx hd)) hb))

/-- One IIR sample writes the history and the counter. -/
theorem EngineKeeps.stepIir {b : Bank} {x : Flt} (hi : i ∈ histWriters) (hu : i.unit = .iir)
    (hx : Fits c.fmt p.din → Fits c.fmt x) (hb : P b) : P (stepIir c b x).1 :=
  h.draws (n := 2 * c.numB + 2 * c.numA + 1) (h.hist hi (v := (Machine.stepIir c b x).1.hist)
    (fun hd hs => hu ▸ sound_stepIir (hu ▸ hs) (hx hd)) hb)

end Engines

/-- What every update of an engine keeps, the engine keeps. -/
theorem engineOf_keeps {c : Params} {i : Instr} {p : Pend} {P : Bank → Prop} (h : EngineKeeps c i p P) (fail : Option Nat)
    (b : Bank) (m : Memory) (hb : P b) : P (engineOf i c p fail b m).1 := by
  have hzero := fltZero_fits c.fmt
  cases i with
  | firProcess => exact h.processLoop (fun hx => h.stepFir (by decide) (by decide) rfl fun _ => hx) hb
  | iirProcess => exact h.processLoop (fun hx => h.stepIir (by decide) rfl fun _ => hx) hb
  | winProcess => exact h.processLoop (fun _ => h.draws) hb
  | firProcess1 =>
    exact h.dout (by decide) (stepFir_fits c b p.din) (h.stepFir (by decide) (by decide) rfl id hb)
  | iirProcess1 => exact h.dout (by decide) (stepIir_fits c b p.din) (h.stepIir (by decide) rfl id hb)
  | firReset => exact h.head (by decide) id (h.hist (by decide) (fun _ _ => sound_replicate _ hzero) hb)
  | iirReset =>
    exact h.coef (by decide) (sound_replicate _ hzero) (h.hist (by decide) (fun _ _ => sound_replicate _ hzero) hb)
  | firSetFactors | iirSetFactors | winSetFactors => exact h.setFactors (by decide) rfl hb
  | firGetFactors | iirGetFactors | winGetFactors => exact h.getFactors hb
  | firDesignLowpass => exact h.draws (h.coef (by decide) (sound_lowpass _ _ _ _) hb)
  | firDesignHighpass => exact h.draws (h.coef (by decide) (sound_highpass _ _ _ _) hb)
  | firDesignBandpass => exact h.draws (h.coef (by decide) (sound_map_range _ fun _ => fsub_fits _ _ _ _) hb)
  | iirSetCoeffs =>
    have hload : P (loadCoeffs c p b m) :=
      h.prog (h.coef (by decide) ((sound_readVector _ _ _ _).append (sound_readVector _ _ _ _)) hb)
    simp only [engineOf, engineIirSetCoeffs]
    split
    · split_ifs
      · exact h.busError (h.prog hb)
      · exact hload
    · exact hload
  | winSetupRect => exact h.coef (by decide) (sound_replicate _ (fltOne_fits _)) hb
  | winSetupHamming | winSetupHann | winSetupBlackman => exact h.setupTable (by decide) rfl hb

end Sys2Proof.Machine

/-! PROOFS. Memory through an engine, a reset and a host store: canonical and inside the 2^32-byte space
(20_memory.md R142, R145). -/

namespace Sys2Proof.Machine

/-- Canonical memory inside the 2^32-byte space. -/
def MemSound (m : Memory) : Prop := Memory.wf m = true ∧ ∀ c ∈ m, c.1 < 2 ^ 32

theorem MemSound.writeBytes {n a v : Nat} {m : Memory} (h : MemSound m) (ha : a + n ≤ 2 ^ 32) :
    MemSound (writeBytes m a n v) := by
  induction n generalizing m a v with
  | zero => exact h
  | succ n ih =>
    obtain ⟨hwf, htop⟩ := h
    refine ih ⟨memSet_wf _ _ _ hwf, fun c hc => ?_⟩ (by omega)
    rcases mem_memSet _ _ _ hc with hc | rfl
    · exact htop c hc
    · simp only; omega

theorem MemSound.writeFlt {f : Fmt} {a : Nat} {v : Flt} {m : Memory} (h : MemSound m) (ha : a + fltBytes f ≤ 2 ^ 32) :
    MemSound (writeFlt f m a v) := h.writeBytes ha

theorem elemAddr_succ (f : Fmt) (base k : Nat) : elemAddr f base (k + 1) = elemAddr f base k + fltBytes f := by
  simp only [elemAddr]; ring

theorem elemAddr_mono (f : Fmt) (base : Nat) {j k : Nat} (h : j ≤ k) : elemAddr f base j ≤ elemAddr f base k :=
  Nat.add_le_add_left (Nat.mul_le_mul_right _ h) _

section Loops
variable {f : Fmt} {u : UnitId} {base : Nat} {fail : Option Nat}

theorem processLoop_memSound (sample : Bank → Flt → Nat → Bank × Flt) (n k : Nat) (b : Bank) {m : Memory}
    (h : MemSound m) (htop : elemAddr f base (k + n) ≤ 2 ^ 32) :
    MemSound (processLoop f u sample base fail n k b m).2 := by
  induction n generalizing k b m with
  | zero => exact h
  | succ n ih =>
    have hk := elemAddr_succ f base k
    have hend := elemAddr_mono f base (show k + 1 ≤ k + (n + 1) by omega)
    unfold processLoop
    dsimp only
    split_ifs
    · exact h
    · exact h.writeFlt (by omega)
    · exact ih _ _ (h.writeFlt (by omega)) (by rwa [Nat.add_right_comm k 1 n])

theorem storeLoop_memSound (vs : List Flt) (k : Nat) (b : Bank) {m : Memory} (h : MemSound m)
    (htop : elemAddr f base (k + vs.length) ≤ 2 ^ 32) : MemSound (storeLoop f u base fail vs k b m).2 := by
  induction vs generalizing k b m with
  | nil => exact h
  | cons v vs ih =>
    rw [List.length_cons] at htop
    have hk := elemAddr_succ f base k
    have hend := elemAddr_mono f base (show k + 1 ≤ k + (vs.length + 1) by omega)
    unfold storeLoop
    dsimp only
    split_ifs
    · exact h.writeFlt (by omega)
    · exact ih _ _ (h.writeFlt (by omega)) (by rwa [Nat.add_right_comm k 1 vs.length])

end Loops

/-- What a passed buffer check says. -/
theorem of_checkBuffer_eq_none {f : Fmt} {addr len : Nat} {req : Option Nat} (h : checkBuffer f addr len req = none) :
    addr ≠ 0 ∧ len ≠ 0 ∧ (∀ n, req = some n → len = n) ∧ addr + len * fltBytes f ≤ 2 ^ 32 := by
  unfold checkBuffer at h
  split_ifs at h with h0 hl hreq hal htop
  refine ⟨h0, hl, ?_, Nat.le_of_not_lt htop⟩
  rintro n rfl
  simpa using hreq

/-- The commands that write memory: PROCESS and GET_FACTORS. -/
def memWriters : List Instr := [.firProcess, .iirProcess, .winProcess, .firGetFactors, .iirGetFactors, .winGetFactors]

/-- A validated command that writes memory has its buffer inside the space, and GET_FACTORS has LEN = NC(u). -/
theorem buffer_of_memWriter {c : Params} {p : Pend} (hi : p.op ∈ memWriters) (hc : checkOf p.op c p = none) :
    p.addr.toNat + p.len.toNat * fltBytes c.fmt ≤ 2 ^ 32 ∧ writtenElements c p = p.len.toNat := by
  simp only [memWriters, List.mem_cons, List.not_mem_nil, or_false] at hi
  rcases hi with hop | hop | hop | hop | hop | hop <;> rw [hop] at hc <;>
    obtain ⟨-, -, hlen, htop⟩ := of_checkBuffer_eq_none hc
  · exact ⟨htop, by simp [writtenElements, hop]⟩
  · exact ⟨htop, by simp [writtenElements, hop]⟩
  · exact ⟨htop, by simp [writtenElements, hop]⟩
  · exact ⟨htop, by simp [writtenElements, hop, Instr.unit, Params.nc, hlen]⟩
  · exact ⟨htop, by simp [writtenElements, hop, Instr.unit, Params.nc, hlen]⟩
  · exact ⟨htop, by simp [writtenElements, hop, Instr.unit, Params.nc, hlen]⟩

/-- A command that is no memory writer leaves memory alone. -/
theorem engineOf_mem_eq {i : Instr} (hi : i ∉ memWriters) (c : Params) (p : Pend) (fail : Option Nat) (b : Bank)
    (m : Memory) : (engineOf i c p fail b m).2 = m := by
  cases i with
  | firProcess | iirProcess | winProcess | firGetFactors | iirGetFactors | winGetFactors => exact absurd (by decide) hi
  | firSetFactors | iirSetFactors | winSetFactors => exact (setFactors_frame _ _ _ _ _ _).2
  | iirSetCoeffs =>
    simp only [engineOf, engineIirSetCoeffs]
    split
    · split_ifs <;> rfl
    · rfl
  | firProcess1 | firReset | firDesignLowpass | firDesignHighpass | firDesignBandpass | iirProcess1 | iirReset
  | winSetupRect | winSetupHamming | winSetupHann | winSetupBlackman => rfl

theorem coefVector_length (b : Bank) (n : Nat) : (coefVector b n).length = n := by simp [coefVector]

/-- An engine keeps memory canonical and inside the space. -/
theorem engineOf_memSound {c : Params} {p : Pend} (fail : Option Nat) (b : Bank) {m : Memory}
    (hc : checkOf p.op c p = none) (h : MemSound m) : MemSound (engineOf p.op c p fail b m).2 := by
  by_cases hi : p.op ∈ memWriters
  · obtain ⟨htop, hlen⟩ := buffer_of_memWriter hi hc
    have hloop (u : UnitId) (sample : Bank → Flt → Nat → Bank × Flt) :
        MemSound (processLoop c.fmt u sample p.addr.toNat fail p.len.toNat 0 b m).2 :=
      processLoop_memSound sample _ 0 b h (by rwa [Nat.zero_add])
    have hget (u : UnitId) (hn : c.nc u = p.len.toNat) :
        MemSound (getFactors c.fmt u (c.nc u) p fail b m).2 :=
      storeLoop_memSound _ 0 b h (by rwa [Nat.zero_add, coefVector_length, hn])
    simp only [memWriters, List.mem_cons, List.not_mem_nil, or_false] at hi
    rcases hi with hop | hop | hop | hop | hop | hop <;> simp only [writtenElements, hop] at hlen ⊢
    · exact hloop _ _
    · exact hloop _ _
    · exact hloop _ _
    · exact hget .fir hlen
    · exact hget .iir hlen
    · exact hget .win hlen
  · rwa [engineOf_mem_eq hi]

/-- An abandoned command that is no memory writer leaves memory alone. -/
theorem memAfterPrefix_eq {c : Params} {p : Pend} (hi : p.op ∉ memWriters) (k : Nat) (b : Bank) (m : Memory) :
    memAfterPrefix c p k b m = m := by
  unfold memAfterPrefix
  cases hop : p.op with
  | firProcess | iirProcess | winProcess | firGetFactors | iirGetFactors | winGetFactors =>
    exact absurd (by rw [hop]; decide) hi
  | firProcess1 | firReset | firSetFactors | firDesignLowpass | firDesignHighpass | firDesignBandpass | iirProcess1
  | iirReset | iirSetFactors | iirSetCoeffs | winSetFactors | winSetupRect | winSetupHamming | winSetupHann
  | winSetupBlackman => rfl

/-- The writes before a reset keep memory canonical and inside the space. -/
theorem memAfterPrefix_memSound {c : Params} {p : Pend} {k : Nat} (b : Bank) {m : Memory} (hc : checkOf p.op c p = none)
    (hk : k ≤ writtenElements c p) (h : MemSound m) : MemSound (memAfterPrefix c p k b m) := by
  by_cases hi : p.op ∈ memWriters
  · obtain ⟨htop, hlen⟩ := buffer_of_memWriter hi hc
    have hend : elemAddr c.fmt p.addr.toNat k ≤ 2 ^ 32 :=
      (elemAddr_mono c.fmt p.addr.toNat (hk.trans_eq hlen)).trans htop
    have hloop (u : UnitId) (sample : Bank → Flt → Nat → Bank × Flt) :
        MemSound (processLoop c.fmt u sample p.addr.toNat none k 0 b m).2 :=
      processLoop_memSound sample _ 0 b h (by rwa [Nat.zero_add])
    have hget (u : UnitId) :
        MemSound (storeLoop c.fmt u p.addr.toNat none ((coefVector b (c.nc u)).take k) 0 b m).2 :=
      storeLoop_memSound _ 0 b h
        ((elemAddr_mono c.fmt _ (by rw [Nat.zero_add]; exact List.length_take_le _ _)).trans hend)
    simp only [memWriters, List.mem_cons, List.not_mem_nil, or_false] at hi
    rcases hi with hop | hop | hop | hop | hop | hop <;> simp only [memAfterPrefix, hop, hloop, hget]
  · rwa [memAfterPrefix_eq hi]

theorem abandon_memSound {s : State} (hp : ∀ u p, (s.bank u).pend = some p → checkOf p.op s.cfg p = none) (n : Nat)
    (u : UnitId) {m : Memory} (h : MemSound m) : MemSound (abandon s n u m) := by
  unfold abandon
  split
  · exact h
  · next p hq =>
    exact memAfterPrefix_memSound _ (hp u p hq) (Nat.le_of_lt_succ (Nat.mod_lt _ (Nat.succ_pos _))) h

end Sys2Proof.Machine

/-! PROOFS. The invariant: a bank after each update of it, a state after each agent's transition, and every step
(10_state.md R50 to R58, 40_common.md R230 to R256, 70_reset_and_hazards.md R550 to R562). -/

namespace Sys2Proof.Machine

/-! ### One bank -/

section BankUpdates
variable {c : Params} {u : UnitId} {b : Bank} (h : BankInv c u b)
include h

theorem BankInv.setProg (k : Nat) : BankInv c u (b.setProg k) := { h with }

theorem BankInv.withProgSeen (k : Nat) : BankInv c u { b with progSeen := k } := { h with }

theorem BankInv.useDraws (n : Nat) : BankInv c u (b.useDraws n) := { h with }

theorem BankInv.complete : BankInv c u b.complete := { h with pend := fun _ hp => by cases hp }

/-- ERRADDR is not touched, and BUS_ERROR stays the code once recorded. -/
theorem BankInv.raise (e : ErrCode) : BankInv c u (b.raise e) :=
  { h with errAddr := h.errAddr.imp id fun he => by rw [Bank.raise_err, he]; rfl }

theorem BankInv.withDone (d : Bool) : BankInv c u { b with done := d } := { h with }

/-- ERRADDR is written only together with BUS_ERROR. -/
theorem BankInv.recordBusError (a : Nat) : BankInv c u (b.busError a) := by
  have herr : (b.busError a).errAddr = 0#32 ∨ (b.busError a).err = some .busError := by
    rw [Bank.busError_errAddr, Bank.busError_err]
    cases he : b.err with
    | none => exact .inr rfl
    | some e => exact h.errAddr.imp id fun hb => by rw [← he, hb]; rfl
  constructor
  case errAddr => exact herr
  case pend => simpa using h.pend
  all_goals simp only [Bank.busError_coef, Bank.busError_hist, Bank.busError_head, Bank.busError_freqA,
    Bank.busError_freqB, Bank.busError_din, Bank.busError_dout, Bank.busError_stFreqA, Bank.busError_stFreqB,
    Bank.busError_stDin, Bank.busError_stCdata, Bank.busError_stHdata]
  exacts [h.coefLen, h.histLen, h.head, h.coefFit, h.histFit, h.regsFit, h.latches]

theorem BankInv.withCoef {v : List Flt} (hv : Sound c.fmt (c.nc u) v) : BankInv c u { b with coef := v } :=
  { h with coefLen := hv.length, coefFit := hv.fits }

theorem BankInv.withHist {v : List Flt} (hv : Sound c.fmt (c.nh u) v) : BankInv c u { b with hist := v } :=
  { h with histLen := hv.length, histFit := hv.fits }

theorem BankInv.coefSound : Sound c.fmt (c.nc u) b.coef := ⟨h.coefLen, h.coefFit⟩

theorem BankInv.histSound : Sound c.fmt (c.nh u) b.hist := ⟨h.histLen, h.histFit⟩

theorem BankInv.clearStatus (w : Word) : BankInv c u (b.clearStatus w) := by
  rw [clearStatus_eq]
  exact { h with
    errAddr := by cases w.getLsbD 2 with
      | true => exact .inl rfl
      | false => exact h.errAddr }

end BankUpdates

/-- The head is moved only by FIR commands, and inside the history. -/
theorem unit_of_headWriter {i : Instr} (hi : i ∈ headWriters) : i.unit = .fir := by fin_cases hi <;> rfl

theorem engineKeeps_bankInv {c : Params} {i : Instr} {p : Pend} (hpos : 0 < c.firSize) (hdin : Fits c.fmt p.din) :
    EngineKeeps c i p (BankInv c i.unit) where
  prog h := h.setProg _
  draws h := h.useDraws _
  busError h := h.recordBusError _
  coef _ _ _ hv h := h.withCoef hv
  hist _ _ _ hv h := h.withHist (hv hdin h.histSound)
  head hi _ _ hk h := { h with head := by rw [if_pos (unit_of_headWriter hi)]; exact hk hpos }
  dout _ _ _ hv h := { h with regsFit := ⟨h.regsFit.1, h.regsFit.2.1, h.regsFit.2.2.1, hv⟩ }

/-! ### Register writes -/

theorem fits_joinWords_zero (f : Fmt) (w : Word) : Fits f (joinWords 0#32 w) := by
  have hw := w.isLt
  rw [joinWords_zero, Fits, BitVec.toNat_setWidth, Nat.mod_eq_of_lt (by omega)]
  exact hw.trans_le (by cases f <;> decide)

theorem fits_b64 (x : Flt) : Fits .b64 x := x.isLt

section RegisterWrites
variable {c : Params} {u : UnitId} {b : Bank}

theorem BankInv.commitFlt (h : BankInv c u b) (r : FltReg) {v : Flt} (hv : Fits c.fmt v) :
    BankInv c u (commitFlt c u r v b) := by
  obtain ⟨hA, hB, hdin, hdout⟩ := h.regsFit
  cases r with
  | freqA => exact { h with regsFit := ⟨hv, hB, hdin, hdout⟩ }
  | freqB => exact { h with regsFit := ⟨hA, hv, hdin, hdout⟩ }
  | din => exact { h with regsFit := ⟨hA, hB, hv, hdout⟩ }
  | dout => exact h
  | cdata =>
    rw [commitFlt_cdata]
    split_ifs
    · exact h.raise _
    · exact h.raise _
    · exact h.withCoef (h.coefSound.set _ hv)
  | hdata =>
    rw [commitFlt_hdata]
    split_ifs
    · exact h.raise _
    · exact h.raise _
    · exact h.withHist (h.histSound.set _ hv)

/-- The latches are written with FW = 64 only. -/
theorem BankInv.setStage (h : BankInv c u b) (hf : c.fmt = .b64) (r : FltReg) (w : Word) : BankInv c u (b.setStage r w) := by
  have hlatches {P : Prop} : c.fmt = .b32 → P := fun h32 => by rw [hf] at h32; cases h32
  cases r with
  | dout => exact h
  | freqA | freqB | din | cdata | hdata => exact { h with latches := hlatches }

theorem BankInv.writeLo (h : BankInv c u b) (r : FltReg) (w : Word) : BankInv c u (writeLo c u r w b) := by
  unfold Machine.writeLo
  split
  · exact h.commitFlt r (fits_joinWords_zero _ w)
  · next hf => exact h.setStage hf r w

theorem BankInv.writeHi (h : BankInv c u b) (r : FltReg) (w : Word) : BankInv c u (writeHi c u r w b) := by
  unfold Machine.writeHi
  split
  · exact h
  · next hf => exact h.commitFlt r (hf ▸ fits_b64 _)

theorem BankInv.writeHead (h : BankInv c u b) (w : Word) : BankInv c u (writeReg c u .head w b) := by
  cases u with
  | fir =>
    simp only [writeReg, headStop]
    split_ifs with hbusy hoob
    · exact h.raise _
    · exact h.raise _
    · exact { h with head := by simpa using hoob }
  | iir | win => exact h

theorem BankInv.writeReg (h : BankInv c u b) (r : Reg) (w : Word) : BankInv c u (writeReg c u r w b) := by
  cases r with
  | id | size0 | size1 | prog | errAddr | cmd => exact h
  | ctrl | addr | addr2 | len | len2 | cidx | hidx => exact { h with }
  | status => exact h.clearStatus w
  | head => exact h.writeHead w
  | lo f => exact h.writeLo f w
  | hi f => exact h.writeHi f w

/-- Two banks hold the same in-flight record, PROG and last PROG read. -/
def SameFlight (b b' : Bank) : Prop := b'.pend = b.pend ∧ b'.prog = b.prog ∧ b'.progSeen = b.progSeen

theorem sameFlight_commitFlt (r : FltReg) (v : Flt) : SameFlight b (commitFlt c u r v b) := by
  cases r with
  | freqA | freqB | din | dout => exact ⟨rfl, rfl, rfl⟩
  | cdata => rw [commitFlt_cdata]; split_ifs <;> exact ⟨rfl, rfl, rfl⟩
  | hdata => rw [commitFlt_hdata]; split_ifs <;> exact ⟨rfl, rfl, rfl⟩

/-- No register write other than CMD's touches what is in flight. -/
theorem sameFlight_writeReg (r : Reg) (w : Word) : SameFlight b (writeReg c u r w b) := by
  cases r with
  | id | size0 | size1 | prog | errAddr | cmd | ctrl | addr | addr2 | len | len2 | cidx | hidx => exact ⟨rfl, rfl, rfl⟩
  | status => exact ⟨Bank.clearStatus_pend b w, Bank.clearStatus_prog b w, Bank.clearStatus_progSeen b w⟩
  | head =>
    cases u with
    | fir => simp only [writeReg, headStop]; split_ifs <;> exact ⟨rfl, rfl, rfl⟩
    | iir | win => exact ⟨rfl, rfl, rfl⟩
  | lo f =>
    simp only [writeReg, writeLo]
    split
    · exact sameFlight_commitFlt f _
    · cases f <;> exact ⟨rfl, rfl, rfl⟩
  | hi f =>
    simp only [writeReg, writeHi]
    split
    · exact ⟨rfl, rfl, rfl⟩
    · exact sameFlight_commitFlt f _

end RegisterWrites

/-! ### States -/

/-- A state with sound banks and memory in which every command in flight was in flight before, with a final PROG no read
has passed. -/
theorem Inv.of_flight {s t : State} (h : Inv s) (hcfg : t.cfg = s.cfg) (hmem : MemSound t.mem)
    (hbanks : ∀ u, BankInv s.cfg u (t.bank u))
    (hpend : ∀ u p, (t.bank u).pend = some p → (s.bank u).pend = some p ∧ (t.bank u).prog = (s.bank u).prog ∧
      nextFail u t.sched = nextFail u s.sched ∧ (t.bank u).progSeen ≤ (outcomeOf s u p).prog.toNat) : Inv t where
  legal := hcfg ▸ h.legal
  banks := hcfg ▸ hbanks
  memWf := hmem.1
  memTop := hmem.2
  noRace u v p q huv hu hv := hcfg ▸ h.noRace u v p q huv (hpend u p hu).1 (hpend v q hv).1
  progSeen u p hp := by
    obtain ⟨-, hprog, hfail, hseen⟩ := hpend u p hp
    rwa [outcomeOf, hcfg, hfail, engineOf_prog p.op s.cfg p _ (t.bank u) (s.bank u) t.mem s.mem hprog]

theorem Inv.memSound {s : State} (h : Inv s) : MemSound s.mem := ⟨h.memWf, h.memTop⟩

theorem Inv.withMem {s : State} (h : Inv s) {m : Memory} (hm : MemSound m) : Inv (s.withMem m) := by
  refine h.of_flight rfl hm (fun u => by simpa using h.banks u) fun u p hp => ?_
  rw [State.withMem_bank] at hp ⊢
  exact ⟨hp, rfl, rfl, h.progSeen u p hp⟩

/-- The host's side, the schedule's host turns and the counter of reads are no part of the invariant. -/
theorem Inv.of_banks_eq {s t : State} (h : Inv s) (hcfg : t.cfg = s.cfg) (hmem : t.mem = s.mem)
    (hbank : ∀ u, t.bank u = s.bank u) (hfail : ∀ u, nextFail u t.sched = nextFail u s.sched) : Inv t := by
  refine h.of_flight hcfg (hmem ▸ h.memSound) (fun u => hbank u ▸ h.banks u) fun u p hp => ?_
  rw [hbank] at hp ⊢
  exact ⟨hp, rfl, hfail u, h.progSeen u p hp⟩

theorem Inv.withHost {s : State} (h : Inv s) (l : List HostOp) : Inv (s.withHost l) :=
  h.of_banks_eq rfl rfl (State.withHost_bank s l) fun _ => rfl

theorem Inv.push {s : State} (h : Inv s) (r : Response) : Inv (s.push r) :=
  h.of_banks_eq rfl rfl (State.push_bank s r) fun _ => rfl

theorem Inv.tick {s : State} (h : Inv s) : Inv s.tick := h.of_banks_eq rfl rfl (State.tick_bank s) fun _ => rfl

/-- One bank replaced by a sound one with the same command in flight and a bounded last PROG read. -/
theorem Inv.setBank {s : State} (h : Inv s) {u : UnitId} {b : Bank} (hb : BankInv s.cfg u b)
    (hpend : b.pend = (s.bank u).pend) (hprog : b.prog = (s.bank u).prog)
    (hseen : ∀ p, (s.bank u).pend = some p → b.progSeen ≤ (outcomeOf s u p).prog.toNat) : Inv (s.setBank u b) := by
  refine h.of_flight (State.setBank_cfg s u b) (by rw [State.setBank_mem]; exact h.memSound) (fun v => ?_) fun v p hp => ?_
  · rw [State.bank_setBank]
    split_ifs with hv
    · rwa [hv]
    · exact h.banks v
  · rw [State.bank_setBank] at hp ⊢
    rw [State.setBank_sched]
    split_ifs at hp ⊢ with hv
    · subst hv
      rw [hpend] at hp
      exact ⟨hp, hprog, rfl, hseen p hp⟩
    · exact ⟨hp, rfl, rfl, h.progSeen v p hp⟩

theorem Inv.setBank_of_sameFlight {s : State} (h : Inv s) {u : UnitId} {b : Bank} (hb : BankInv s.cfg u b)
    (hf : SameFlight (s.bank u) b) : Inv (s.setBank u b) := by
  obtain ⟨hpend, hprog, hseen⟩ := hf
  exact h.setBank hb hpend hprog fun p hp => hseen ▸ h.progSeen u p hp

theorem Inv.raiseIn {s : State} (h : Inv s) (u : UnitId) (e : ErrCode) : Inv (s.raiseIn u e) :=
  h.setBank_of_sameFlight ((h.banks u).raise e) ⟨rfl, rfl, rfl⟩

/-! ### Engines and reset -/

/-- The answers the other units' engines will get are the same before and after a unit's turn. -/
theorem nextFail_of_engineNext {u v : UnitId} {sched rest : List Turn} {fail : Option Nat} (hv : v ≠ u)
    (h : engineNext u sched = some (fail, rest)) : nextFail v rest = nextFail v sched := by
  unfold engineNext at h
  split at h
  · cases h; rfl
  · split_ifs at h with hw
    cases h
    rw [nextFail, if_neg (hw ▸ hv.symm)]
  · cases h
  · cases h

theorem firSize_pos_of_legal {c : Params} (h : c.legal = true) : 0 < c.firSize := by
  simp only [Params.legal, Bool.and_eq_true, decide_eq_true_eq] at h
  omega

/-- The turn of an idle engine changes nothing. -/
theorem engineTurn_of_idle {s : State} {u : UnitId} (h : (s.bank u).pend = none) (fail : Option Nat) :
    engineTurn u fail s = s := by rw [engineTurn, h]

theorem engineTurn_of_pend {s : State} {u : UnitId} {p : Pend} (h : (s.bank u).pend = some p) (fail : Option Nat) :
    engineTurn u fail s =
      (s.setBank u (engineOf p.op s.cfg p fail (s.bank u) s.mem).1.complete).withMem
        (engineOf p.op s.cfg p fail (s.bank u) s.mem).2 := by
  simp only [engineTurn, h, runEngine]

/-- A unit's turn, whether the schedule names it or is exhausted. -/
theorem Inv.engineTurn {s : State} (h : Inv s) {u : UnitId} {fail : Option Nat} {rest : List Turn}
    (hn : engineNext u s.sched = some (fail, rest)) : Inv (engineTurn u fail (s.withSched rest)) := by
  cases hp : (s.bank u).pend with
  | none =>
    rw [engineTurn_of_idle (by rw [State.withSched_bank, hp])]
    refine h.of_flight rfl h.memSound (fun v => by simpa using h.banks v) fun v q hq => ?_
    rw [State.withSched_bank] at hq ⊢
    have hv : v ≠ u := by rintro rfl; rw [hp] at hq; cases hq
    exact ⟨hq, rfl, nextFail_of_engineNext hv hn, h.progSeen v q hq⟩
  | some p =>
    obtain ⟨hunit, -, hchecked, -, -, -, hdin⟩ := (h.banks u).pend p hp
    rw [engineTurn_of_pend (by rw [State.withSched_bank, hp])]
    simp only [State.withSched_bank, State.withSched_cfg, State.withSched_mem]
    have hbank : BankInv s.cfg u (engineOf p.op s.cfg p fail (s.bank u) s.mem).1 := by
      subst hunit
      exact engineOf_keeps (engineKeeps_bankInv (firSize_pos_of_legal h.legal) hdin) fail _ _ (h.banks _)
    refine h.of_flight (by simp) (engineOf_memSound fail _ hchecked h.memSound) (fun v => ?_) fun v q hq => ?_
    · rw [State.withMem_bank, State.bank_setBank, State.withSched_bank]
      split_ifs with hv
      · rw [hv]; exact hbank.complete
      · exact h.banks v
    · rw [State.withMem_bank, State.bank_setBank, State.withSched_bank] at hq ⊢
      split_ifs at hq ⊢ with hv
      · cases hq
      · exact ⟨hq, rfl, by rw [State.withMem_sched, State.setBank_sched]; exact nextFail_of_engineNext hv hn,
          h.progSeen v q hq⟩

theorem bankInv_reset {c : Params} (hlegal : c.legal = true) (u : UnitId) (draws : Nat) :
    BankInv c u (Bank.reset c u draws) := by
  have hz := fltZero_fits c.fmt
  have hcoef : Sound c.fmt (c.nc u) (List.replicate (c.nc u) (resetCoef c u)) := by
    cases u with
    | fir | iir => exact sound_replicate _ hz
    | win => exact sound_replicate _ (fltOne_fits _)
  have hhist : Sound c.fmt (c.nh u) (List.replicate (c.nh u) fltZero) := sound_replicate _ hz
  refine ⟨hcoef.length, hhist.length, ?_, hcoef.fits, hhist.fits, ⟨hz, hz, hz, hz⟩, fun _ => ⟨rfl, rfl, rfl, rfl, rfl⟩,
    .inl rfl, fun p hp => by cases hp⟩
  split_ifs
  · exact firSize_pos_of_legal hlegal
  · rfl

/-- A state whose banks are all fresh from reset. -/
theorem inv_of_reset {s : State} (hlegal : s.cfg.legal = true) (hmem : MemSound s.mem) {draws : UnitId → Nat}
    (hbank : ∀ u, s.bank u = Bank.reset s.cfg u (draws u)) : Inv s := by
  have hidle {u : UnitId} {p : Pend} (hp : (s.bank u).pend = some p) : False := by rw [hbank] at hp; cases hp
  exact ⟨hlegal, fun u => hbank u ▸ bankInv_reset hlegal u _, hmem.1, hmem.2, fun u v p q _ hp => (hidle hp).elim,
    fun u p hp => (hidle hp).elim⟩

theorem Inv.blockReset {s : State} (h : Inv s) (rest : List Turn) : Inv (blockReset (s.withSched rest)) := by
  have hp (u : UnitId) (p : Pend) (hu : ((s.withSched rest).bank u).pend = some p) : checkOf p.op s.cfg p = none :=
    ((h.banks u).pend p (by rwa [State.withSched_bank] at hu)).checked
  exact inv_of_reset h.legal
    (abandon_memSound hp _ _ (abandon_memSound hp _ _ (abandon_memSound hp _ _ h.memSound))) (blockReset_bank _)

/-! ### The host -/

theorem progWhileBusy_bounds (n : Nat) {seen final : Nat} (h : seen ≤ final) :
    seen ≤ progWhileBusy n seen final ∧ progWhileBusy n seen final ≤ final := by
  have := Nat.mod_lt (Config.progDraw n) (show 0 < final - seen + 1 by omega)
  unfold progWhileBusy
  omega

theorem Inv.readFltWord {s : State} (h : Inv s) (u : UnitId) (r : FltReg) (word : Flt → Word) :
    Inv (readFltWord s u r word).2 := by
  cases r with
  | freqA | freqB | din => exact h
  | dout =>
    simp only [Machine.readFltWord, readDout]
    split
    · exact h
    · exact h.tick
  | cdata =>
    simp only [Machine.readFltWord]
    split
    · exact h.raiseIn u _
    · exact h
  | hdata =>
    simp only [Machine.readFltWord]
    split
    · exact h.raiseIn u _
    · exact h

/-- A PROG read while busy becomes the last one read, which the final count bounds. -/
theorem Inv.readProg {s : State} (h : Inv s) (u : UnitId) : Inv (readProg s u).2 := by
  simp only [Machine.readProg]
  split
  · exact h
  · next p hp =>
    refine Inv.tick (h.setBank ((h.banks u).withProgSeen _) rfl rfl fun q hq => ?_)
    cases hp.symm.trans hq
    exact (progWhileBusy_bounds _ (h.progSeen u p hp)).2

theorem Inv.readReg {s : State} (h : Inv s) (u : UnitId) (r : Reg) : Inv (readReg s u r).2 := by
  cases r with
  | prog => exact h.readProg u
  | head =>
    cases u with
    | fir =>
      simp only [Machine.readReg, readHead]
      split_ifs
      · exact h.tick
      · exact h
    | iir | win => exact h
  | lo f => exact h.readFltWord u f loWord
  | hi f =>
    simp only [Machine.readReg]
    split
    · exact h
    · exact h.readFltWord u f hiWord
  | id | size0 | size1 | ctrl | status | cmd | addr | addr2 | len | len2 | cidx | hidx | errAddr => exact h

/-- An accepted command whose engine moves next is the acceptance followed by the engine's turn. -/
theorem exec_ready_turn {i : Instr} {s : State} {fail : Option Nat} {rest : List Turn} (h : Ready i s)
    (hn : engineNext i.unit s.sched = some (fail, rest)) :
    exec i s = .next (engineTurn i.unit fail
      ((s.setBank i.unit ((s.bank i.unit).accept (s.latched i))).withSched rest)) := by
  rw [exec_ready_now h hn, engineTurn_of_pend (p := s.latched i) (by rw [State.withSched_bank, State.setBank_bank]; rfl)]
  simp only [State.withSched_bank, State.withSched_cfg, State.withSched_mem, State.setBank_bank, State.setBank_cfg,
    State.setBank_mem]
  cases i.unit <;> rfl

theorem Inv.exec {i : Instr} {s t : State} (h : Inv s) (ht : exec i s = .next t) : Inv t := by
  rcases exec_cases ht with ⟨e, d, rfl⟩ | ⟨hready, -, rfl⟩ | ⟨hready, fail, rest, hn, -⟩
  · exact h.setBank_of_sameFlight (((h.banks _).raise e).withDone d) ⟨rfl, rfl, rfl⟩
  · exact h.accepted hready
  · rw [exec_ready_turn hready hn] at ht
    cases ht
    exact (h.accepted hready).engineTurn (by rwa [State.setBank_sched])

theorem Inv.writeCmd {u : UnitId} {w : Word} {s t : State} (h : Inv s) (ht : writeCmd u w s = .next t) : Inv t := by
  unfold Machine.writeCmd at ht
  split at ht
  · exact h.exec ht
  · cases ht
    unfold rejectIllegal
    split_ifs
    · exact h.raiseIn u _
    · exact h.setBank_of_sameFlight (((h.banks u).raise _).withDone true) ⟨rfl, rfl, rfl⟩

theorem Inv.writeBlock {off : Nat} {w : Word} {s t : State} (h : Inv s) (ht : writeBlock off w s = .next t) : Inv t := by
  unfold Machine.writeBlock at ht
  split at ht
  · exact h.writeCmd ht
  · cases ht
    exact h.setBank_of_sameFlight ((h.banks _).writeReg _ w) (sameFlight_writeReg _ w)
  · cases ht; exact h

theorem Inv.readBlock {off : Nat} {s : State} (h : Inv s) : Inv (readBlock off s).2 := by
  unfold Machine.readBlock
  split
  · exact h.readReg _ _
  · exact h

/-- An access that reaches system memory lies inside its space. -/
theorem route_memory_le {c : Params} {addr width : Nat} (h : route c addr width = .memory) : addr + width ≤ 2 ^ 32 := by
  unfold route at h
  split_ifs at h with _ _ hin
  exact hin.2.1

theorem Inv.hostWrite {addr width : Nat} {data : BitVec 64} {s t : State} (h : Inv s)
    (ht : hostWrite addr width data s = .next t) : Inv t := by
  unfold Machine.hostWrite at ht
  split at ht
  · exact h.writeBlock ht
  · cases ht; exact h.push _
  · next hroute =>
    split at ht
    · cases ht
    · cases ht
      exact h.withMem (h.memSound.writeBytes (route_memory_le hroute))
  · cases ht; exact h.push _

theorem Inv.hostRead {addr width : Nat} {s t : State} (h : Inv s) (ht : hostRead addr width s = .next t) : Inv t := by
  unfold Machine.hostRead at ht
  split at ht
  · cases ht; exact h.readBlock.push _
  · cases ht; exact h.push _
  · split at ht
    · cases ht
    · cases ht; exact h.push _
  · cases ht; exact h.push _

theorem Inv.hostTurn {s t : State} (h : Inv s) (ht : hostTurn s = .next t) : Inv t := by
  unfold Machine.hostTurn at ht
  split at ht
  · cases ht; exact h
  · next rest _ => exact (h.withHost rest).hostWrite ht
  · next rest _ => exact (h.withHost rest).hostRead ht
  · cases ht
    unfold hostWait
    dsimp only
    split_ifs
    · exact h.push _
    · exact (h.push _).withHost _

theorem State.withSched_self {s : State} {l : List Turn} (h : s.sched = l) : s.withSched l = s := by subst h; rfl

/-- Settles O59: each agent's transition keeps the invariant; the schedule names the agent, or the first unit in flight
moves, or the host. -/
theorem stepKeepsInv : Obligations.StepKeepsInv := by
  intro s t h ht
  unfold step transition at ht
  split at ht
  · next rest hs =>
    have hrest : Inv (s.withSched rest) :=
      h.of_banks_eq rfl rfl (State.withSched_bank s rest) fun u => by rw [hs, State.withSched_sched, nextFail]
    exact hrest.hostTurn ht
  · next u fail rest hs =>
    cases ht
    exact h.engineTurn (by rw [hs, engineNext, if_pos rfl])
  · next rest hs =>
    cases ht
    exact h.blockReset rest
  · next hs =>
    split at ht
    · next u _ =>
      cases ht
      have hturn := h.engineTurn (u := u) (fail := none) (rest := []) (by rw [hs, engineNext])
      rwa [State.withSched_self hs] at hturn
    · exact h.hostTurn ht

/-- Settles O58: a bank fresh from reset is sound, and an empty memory is. -/
theorem resetMeetsInv : Obligations.ResetMeetsInv := by
  have hreset (c : Params) (hc : c.legal = true) : Inv (State.resetOf c) :=
    inv_of_reset hc ⟨rfl, fun _ hx => absurd hx List.not_mem_nil⟩ (State.resetOf_bank c)
  exact ⟨hreset, hreset Params.default (by decide)⟩

end Sys2Proof.Machine

/-! PROOFS. The command words: the opcode maps invert the opcodes, so a word decodes to a command exactly when it is its
encoding (30_encoding.md R180 to R187). -/

namespace Sys2Proof.Machine

/-- The opcode map of a unit gives only that unit's commands, at their own opcodes. -/
theorem of_decodeOp_eq_some {u : UnitId} {op : Nat} {i : Instr} (h : decodeOp u op = some i) :
    op = opcode i ∧ i.unit = u := by
  cases u with
  | fir => simp only [decodeOp, decodeFir] at h; split at h <;> cases h <;> exact ⟨rfl, rfl⟩
  | iir => simp only [decodeOp, decodeIir] at h; split at h <;> cases h <;> exact ⟨rfl, rfl⟩
  | win => simp only [decodeOp, decodeWin] at h; split at h <;> cases h <;> exact ⟨rfl, rfl⟩

/-- A word is the encoding of its opcode field when its other bits are 0. -/
theorem eq_encode_of_fields {w : Word} {i : Instr} (hrsv : rsvField w = 0) (hop : opField w = opcode i) :
    w = encode i := by
  have hw := Nat.div_add_mod w.toNat 256
  unfold rsvField at hrsv
  unfold opField at hop
  rw [hrsv, hop, Nat.mul_zero, Nat.zero_add] at hw
  rw [encode, hw, BitVec.ofNat_toNat, BitVec.setWidth_eq]

/-- What a word that decodes to a command looks like. -/
theorem of_decode_eq_command {hasDesign : Bool} {u : UnitId} {w : Word} {i : Instr}
    (h : decode hasDesign u w = .command i) :
    w = encode i ∧ i.unit = u ∧ (i.isDesign = true → hasDesign = true) := by
  unfold decode at h
  by_cases hrsv : rsvField w = 0
  case neg => rw [if_pos hrsv] at h; cases h
  rw [if_neg (not_not.mpr hrsv)] at h
  split at h
  · cases h
  · next j hj =>
    split_ifs at h with hdesign
    cases h
    obtain ⟨hop, hunit⟩ := of_decodeOp_eq_some hj
    exact ⟨eq_encode_of_fields hrsv hop, hunit, by simpa using hdesign⟩

theorem decode_encode (i : Instr) : Laws.RoundTrip.Statement i := by
  cases i <;> (unfold Laws.RoundTrip.Statement; decide)

/-- Settles O1: the opcode maps invert the opcodes, and every command's word decodes to it. -/
theorem decodedWordIsTheEncodedCommand : Obligations.DecodedWordIsTheEncodedCommand := by
  intro hasDesign u w i
  refine ⟨of_decode_eq_command, ?_⟩
  rintro ⟨rfl, rfl, hdesign⟩
  rw [decode_encode i hasDesign, if_neg]
  simpa using hdesign

/-- Settles O2: nine words, each decoded by evaluation. -/
theorem specWordsDecode : Obligations.SpecWordsDecode := by
  unfold Obligations.SpecWordsDecode
  decide

end Sys2Proof.Machine

/-! PROOFS. The command lifecycle: what a CMD write answers in each case, the turns of the engines, and the run with the
schedule exhausted (40_common.md R230 to R235, 60_exceptions.md R540, 70_reset_and_hazards.md R561, R570). -/

namespace Sys2Proof.Machine

/-! ### The CMD write -/

section CommandWrite
variable {i : Instr} {s : State}

theorem exec_busy (h : (s.bank i.unit).busy = true) : exec i s = .next (s.raiseIn i.unit .busy) := by
  rw [exec_eq_issue, issue_busy h]

/-- A CMD write answers a next state or one of the two faults a command has. -/
theorem exec_outcome (i : Instr) (s : State) :
    (∃ t, exec i s = .next t) ∨ exec i s = .fault (.windowOverlap i.unit) ∨
      ∃ v, v ≠ i.unit ∧ exec i s = .fault (.unitRace i.unit v) := by
  rw [exec_eq_issue]
  cases hb : (s.bank i.unit).busy with
  | true => exact .inl ⟨_, issue_busy hb⟩
  | false =>
    cases hw : i.wf s.cfg with
    | false => exact .inl ⟨_, issue_illegal hb hw⟩
    | true =>
      cases hc : checkOf i s.cfg (s.latched i) with
      | some e => exact .inl ⟨_, issue_invalid hb hw hc⟩
      | none =>
        cases hh : hitsWindow s.cfg (s.latched i) with
        | true => exact .inr (.inl (issue_window hb hw hc hh))
        | false =>
          cases hr : raceOf s i.unit (s.latched i) with
          | none => exact .inl ⟨_, issue_accepted hb hw hc hh hr⟩
          | some v =>
            have hv := List.find?_some hr
            rw [Bool.and_eq_true, decide_eq_true_eq] at hv
            exact .inr (.inr ⟨v, hv.1, issue_race hb hw hc hh hr⟩)

theorem exec_ne_refused (i : Instr) (s : State) (r : Refusal) : exec i s ≠ .refused r := by
  rcases exec_outcome i s with ⟨t, h⟩ | h | ⟨v, -, h⟩ <;> rw [h] <;> exact nofun

/-- Readiness does not depend on the schedule. -/
theorem Ready.withSched (h : Ready i s) (l : List Turn) : Ready i (s.withSched l) := by
  obtain ⟨hidle, hlegal, hvalid, hwindow, hrace⟩ := h
  have hlatched : (s.withSched l).latched i = s.latched i := by simp [State.latched]
  refine ⟨by simpa using hidle, hlegal, hlatched ▸ hvalid, hlatched ▸ hwindow, ?_⟩
  rw [hlatched, ← hrace]
  simp only [raceOf, racesWith, State.withSched_bank, State.withSched_cfg]

end CommandWrite

/-- Settles O5: the busy check comes before the decoder's answer and before validation. -/
theorem busyCommandIsDropped : Obligations.BusyCommandIsDropped := by
  intro s u hbusy
  have hexec (i : Instr) (hi : i.unit = u) : exec i s = .next (s.raiseIn u .busy) := by
    subst hi
    exact exec_busy hbusy
  refine ⟨fun w => ?_, hexec⟩
  unfold writeCmd
  split
  · next i hdecode =>
    obtain ⟨-, hunit, -⟩ := of_decode_eq_command hdecode
    exact hexec i hunit
  · rw [rejectIllegal, if_pos hbusy]; rfl

/-- Settles O7: an accepted record is the latched one; the engine's turn starts from it. -/
theorem acceptanceLatchesOperands : Obligations.AcceptanceLatchesOperands := by
  intro i s hready b accepted
  exact ⟨exec_ready_deferred hready, fun fail rest hnext => exec_ready_turn hready hnext⟩

/-- Settles O8: the engine's result is completed in its bank and stored in memory, nothing else. -/
theorem readyCommandCompletes : Obligations.ReadyCommandCompletes := by
  intro i s fail rest hready hnext
  refine ⟨_, exec_ready_now hready hnext, ?_⟩
  simp [Bank.busy]

/-- Settles O10: a rejection, an acceptance and a completion each replace one bank, a completion memory and the schedule
too. -/
theorem commandTouchesOnlyItsUnit : Obligations.CommandTouchesOnlyItsUnit := by
  intro i s t ht
  rcases exec_cases ht with ⟨e, d, rfl⟩ | ⟨-, -, rfl⟩ | ⟨-, fail, rest, -, rfl⟩
  · exact ⟨fun v hv => State.setBank_bank_ne s _ hv, by simp⟩
  · exact ⟨fun v hv => State.setBank_bank_ne s _ hv, by simp⟩
  · refine ⟨fun v hv => ?_, by simp⟩
    rw [State.withMem_bank, State.setBank_bank_ne _ _ hv, State.withSched_bank]

/-- The bank of a command after its CMD write: rejected, in flight, or completed by its engine. -/
theorem exec_bank {i : Instr} {s t : State} (ht : exec i s = .next t) :
    (∃ e, t.bank i.unit = (s.bank i.unit).raise e ∨ t.bank i.unit = (s.bank i.unit).reject e) ∨
    (∃ p, t.bank i.unit = (s.bank i.unit).accept p) ∨
    ∃ p fail, t.bank i.unit = (engineOf i s.cfg p fail ((s.bank i.unit).accept p) s.mem).1.complete := by
  rw [exec_eq_issue] at ht
  rcases issue_cases ht with ⟨-, rfl⟩ | ⟨-, -, rfl⟩ | ⟨-, -, e, -, rfl⟩ | ⟨-, -, -, -, -, rfl⟩
  · exact .inl ⟨.busy, .inl (State.setBank_bank _ _ _)⟩
  · exact .inl ⟨.illegalCmd, .inr (State.setBank_bank _ _ _)⟩
  · exact .inl ⟨e, .inr (State.setBank_bank _ _ _)⟩
  · cases hn : engineNext i.unit s.sched with
    | none => exact .inr (.inl ⟨s.latched i, by rw [acceptRun_deferred hn, State.setBank_bank]⟩)
    | some x =>
      exact .inr (.inr ⟨s.latched i, x.1, by rw [acceptRun_now hn, State.withMem_bank, State.setBank_bank]⟩)

section Frame
variable {c : Params} {i : Instr} {p : Pend} {fail : Option Nat} {b : Bank} {m : Memory}

/-- A field that no update of command i's engine writes. -/
theorem engineOf_field_eq {α : Type} (g : Bank → α) (hprog : ∀ b k, g (b.setProg k) = g b)
    (hdraws : ∀ b n, g (b.useDraws n) = g b) (hbus : ∀ b a, g (b.busError a) = g b)
    (hcoef : i ∈ coefWriters → ∀ b v, g { b with coef := v } = g b)
    (hhist : i ∈ histWriters → ∀ b v, g { b with hist := v } = g b)
    (hhead : i ∈ headWriters → ∀ b k, g { b with head := k } = g b)
    (hdout : i ∈ doutWriters → ∀ b v, g { b with dout := v } = g b) : g (engineOf i c p fail b m).1 = g b := by
  have hkeeps : EngineKeeps c i p (fun b' => g b' = g b) := {
    prog := (hprog _ _).trans
    draws := (hdraws _ _).trans
    busError := (hbus _ _).trans
    coef := fun hi _ _ _ => (hcoef hi _ _).trans
    hist := fun hi _ _ _ => (hhist hi _ _).trans
    head := fun hi _ _ _ => (hhead hi _ _).trans
    dout := fun hi _ _ _ => (hdout hi _ _).trans }
  exact engineOf_keeps hkeeps fail b m rfl

theorem engineOf_coef (hi : i ∉ coefWriters) : (engineOf i c p fail b m).1.coef = b.coef :=
  engineOf_field_eq Bank.coef (fun _ _ => rfl) (fun _ _ => rfl) Bank.busError_coef (absurd · hi) (fun _ _ _ => rfl)
    (fun _ _ _ => rfl) (fun _ _ _ => rfl)

theorem engineOf_hist (hi : i ∉ histWriters) : (engineOf i c p fail b m).1.hist = b.hist :=
  engineOf_field_eq Bank.hist (fun _ _ => rfl) (fun _ _ => rfl) Bank.busError_hist (fun _ _ _ => rfl) (absurd · hi)
    (fun _ _ _ => rfl) (fun _ _ _ => rfl)

theorem engineOf_head (hi : i ∉ headWriters) : (engineOf i c p fail b m).1.head = b.head :=
  engineOf_field_eq Bank.head (fun _ _ => rfl) (fun _ _ => rfl) Bank.busError_head (fun _ _ _ => rfl)
    (fun _ _ _ => rfl) (absurd · hi) (fun _ _ _ => rfl)

theorem engineOf_dout (hi : i ∉ doutWriters) : (engineOf i c p fail b m).1.dout = b.dout :=
  engineOf_field_eq Bank.dout (fun _ _ => rfl) (fun _ _ => rfl) Bank.busError_dout (fun _ _ _ => rfl)
    (fun _ _ _ => rfl) (fun _ _ _ => rfl) (absurd · hi)

theorem busError_of_err {e : ErrCode} (a : Nat) (h : b.err = some e) :
    (b.busError a).err = b.err ∧ (b.busError a).errAddr = b.errAddr := by simp [h]

/-- Once an error is recorded, no engine changes the record (60_exceptions.md R501). -/
theorem engineOf_err (h : b.err.isSome = true) :
    (engineOf i c p fail b m).1.err = b.err ∧ (engineOf i c p fail b m).1.errAddr = b.errAddr := by
  obtain ⟨e, he⟩ := Option.isSome_iff_exists.mp h
  have hkeeps : EngineKeeps c i p (fun b' => b'.err = b.err ∧ b'.errAddr = b.errAddr) := {
    prog := id
    draws := id
    busError := fun ⟨herr, haddr⟩ =>
      have hsame := busError_of_err _ (herr.trans he)
      ⟨hsame.1.trans herr, hsame.2.trans haddr⟩
    coef := fun _ _ _ _ => id
    hist := fun _ _ _ _ => id
    head := fun _ _ _ _ => id
    dout := fun _ _ _ _ => id }
  exact engineOf_keeps hkeeps fail b m ⟨rfl, rfl⟩

end Frame

/-- Settles O11: an engine writes no register of `SameRegs`, and the other fields only where its command is listed. -/
theorem commandFrame : Obligations.CommandFrame := by
  intro i s t ht
  have hraise {b : Bank} {e : ErrCode} (h : b.err.isSome = true) : some (b.err.getD e) = b.err := by
    obtain ⟨e', he⟩ := Option.isSome_iff_exists.mp h
    rw [he]; rfl
  rcases exec_bank ht with ⟨e, h | h⟩ | ⟨p, h⟩ | ⟨p, fail, h⟩ <;> rw [h] <;> intro b b'
  · exact ⟨⟨rfl, rfl, rfl, rfl, rfl, rfl, rfl, rfl, rfl, rfl, rfl, rfl, rfl, rfl, rfl, rfl⟩, fun _ => rfl, fun _ => rfl,
      fun _ => rfl, fun _ => rfl, id, fun herr => ⟨hraise herr, rfl⟩⟩
  · exact ⟨⟨rfl, rfl, rfl, rfl, rfl, rfl, rfl, rfl, rfl, rfl, rfl, rfl, rfl, rfl, rfl, rfl⟩, fun _ => rfl, fun _ => rfl,
      fun _ => rfl, fun _ => rfl, fun _ => rfl, fun herr => ⟨hraise herr, rfl⟩⟩
  · exact ⟨⟨rfl, rfl, rfl, rfl, rfl, rfl, rfl, rfl, rfl, rfl, rfl, rfl, rfl, rfl, rfl, rfl⟩, fun _ => rfl, fun _ => rfl,
      fun _ => rfl, fun _ => rfl, id, fun _ => ⟨rfl, rfl⟩⟩
  · have hs := engineOf_sameRegs i s.cfg p fail (b.accept p) s.mem
    exact ⟨⟨hs.doneIe, hs.errIe, hs.addr, hs.addr2, hs.len, hs.len2, hs.cidx, hs.hidx, hs.freqA, hs.freqB, hs.din,
        hs.stFreqA, hs.stFreqB, hs.stDin, hs.stCdata, hs.stHdata⟩,
      engineOf_coef, engineOf_hist, engineOf_head, engineOf_dout, fun _ => rfl, engineOf_err (b := b.accept p)⟩

/-- Settles O12: only a completion changes memory, and an engine stores only inside the written ranges of its record. -/
theorem commandStoresOnlyInItsRanges : Obligations.CommandStoresOnlyInItsRanges := by
  intro i s t ht a ha
  rcases exec_cases ht with ⟨e, d, rfl⟩ | ⟨-, -, rfl⟩ | ⟨hready, fail, rest, -, rfl⟩
  · rw [State.setBank_mem]
  · rw [State.setBank_mem]
  · exact engineOf_mem i s.cfg _ fail _ s.mem rfl hready.valid a ha

/-! ### Faults -/

theorem writeCmd_ne_refused (u : UnitId) (w : Word) (s : State) (r : Refusal) : writeCmd u w s ≠ .refused r := by
  unfold writeCmd
  split
  · exact exec_ne_refused _ s r
  · exact nofun

theorem hostWrite_ne_refused (addr width : Nat) (data : BitVec 64) (s : State) (r : Refusal) :
    hostWrite addr width data s ≠ .refused r := by
  unfold hostWrite
  split
  · unfold writeBlock
    split
    · exact writeCmd_ne_refused _ _ s r
    · exact nofun
    · exact nofun
  · exact nofun
  · split <;> exact nofun
  · exact nofun

theorem hostRead_ne_refused (addr width : Nat) (s : State) (r : Refusal) : hostRead addr width s ≠ .refused r := by
  unfold hostRead
  split
  · exact nofun
  · exact nofun
  · split <;> exact nofun
  · exact nofun

theorem hostTurn_ne_refused (s : State) (r : Refusal) : hostTurn s ≠ .refused r := by
  unfold hostTurn
  split
  · exact nofun
  · exact hostWrite_ne_refused _ _ _ _ r
  · exact hostRead_ne_refused _ _ _ r
  · exact nofun

/-- Settles O13: only a CMD write could refuse, and it answers a next state or one of its two faults. -/
theorem nothingIsRefused : Obligations.NothingIsRefused := by
  refine ⟨fun s r => ?_, fun i s f hf => ?_⟩
  · unfold step transition
    split
    · exact hostTurn_ne_refused _ r
    · exact nofun
    · exact nofun
    · split
      · exact nofun
      · exact hostTurn_ne_refused s r
  · rcases exec_outcome i s with ⟨t, h⟩ | h | ⟨v, hv, h⟩ <;> rw [h] at hf <;> cases hf
    · exact .inl rfl
    · exact .inr ⟨v, hv, rfl⟩

/-- A unit that meets a condition makes the search over the units succeed. -/
theorem exists_find_unit {P : UnitId → Bool} {v : UnitId} (h : P v = true) :
    ∃ v', [UnitId.fir, .iir, .win].find? P = some v' := by
  rw [← Option.isSome_iff_exists, List.find?_isSome]
  exact ⟨v, by cases v <;> decide, h⟩

/-- Settles O14: the window check comes before the race check, and a host access is checked against every record. -/
theorem hazardsFault : Obligations.HazardsFault := by
  refine ⟨fun i s hidle hlegal hvalid hhits => ?_, fun i s v q hidle hlegal hvalid hclear hv hq hconflict => ?_,
    fun s v q r addr width data hq hr htouches hroute => ?_⟩
  · exact (exec_eq_issue i s).trans (issue_window hidle hlegal hvalid hhits)
  · have hrace : (decide (v ≠ i.unit) && racesWith s (s.latched i) v) = true := by
      simp only [racesWith, hq, hconflict, decide_eq_true hv, Bool.and_self]
    obtain ⟨v', hv'⟩ := exists_find_unit (P := fun v => decide (v ≠ i.unit) && racesWith s (s.latched i) v) hrace
    exact ⟨v', (exec_eq_issue i s).trans (issue_race hidle hlegal hvalid hclear hv')⟩
  · have htouched : inFlightTouches s addr width v = true := by
      simp only [inFlightTouches, hq]
      exact List.any_eq_true.mpr ⟨r, hr, htouches⟩
    obtain ⟨v', hv'⟩ := exists_find_unit (P := inFlightTouches s addr width) htouched
    have hrace : hostRaceOf s addr width = some v' := hv'
    exact ⟨⟨v', by simp only [hostWrite, hroute, hrace]⟩, ⟨v', by simp only [hostRead, hroute, hrace]⟩⟩

/-! ### The engines' turns -/

theorem step_engine {s : State} {u : UnitId} {fail : Option Nat} {rest : List Turn} (h : s.sched = .engine u fail :: rest) :
    step s = .next (engineTurn u fail (s.withSched rest)) := by simp only [step, transition, h]

/-- With the schedule exhausted the first unit in flight moves. -/
theorem step_exhausted {s : State} {u : UnitId} (h : s.sched = []) (hu : firstBusy s = some u) :
    step s = .next (engineTurn u none s) := by simp only [step, transition, h, hu]

theorem pend_eq_none_of_idle {b : Bank} (h : b.busy = false) : b.pend = none := by simpa [Bank.busy] using h

theorem exists_pend_of_busy {b : Bank} (h : b.busy = true) : ∃ p, b.pend = some p := Option.isSome_iff_exists.mp h

/-- Settles O9: the engine's turn starts from the accepted state, whenever it comes. -/
theorem deferredEngineGivesTheSameResult : Obligations.DeferredEngineGivesTheSameResult := by
  refine ⟨fun i s fail rest hready => ?_, fun s u fail rest hs => ⟨step_engine hs, fun hidle => ?_⟩,
    fun s u hs hbusy hfir hiir => step_exhausted hs ?_⟩
  · refine ⟨_, _, exec_ready_turn (hready.withSched _) (if_pos rfl), exec_ready_deferred (hready.withSched _) rfl, ?_⟩
    congr 1
    simp only [State.latched, State.withSched_bank]
    cases i.unit <;> rfl
  · rw [step_engine hs, engineTurn_of_idle]
    rw [State.withSched_bank]
    exact pend_eq_none_of_idle hidle
  · cases u with
    | fir => simp [firstBusy, show s.fir.busy = true from hbusy]
    | iir => simp [firstBusy, show s.iir.busy = true from hbusy, hfir.resolve_left (by decide)]
    | win => simp [firstBusy, show s.win.busy = true from hbusy, hfir.resolve_left (by decide), hiir rfl]

/-! ### The run with the schedule exhausted -/

/-- How many units are in flight. -/
def busyCount (s : State) : Nat := ([UnitId.fir, .iir, .win].filter (fun u => (s.bank u).busy)).length

theorem idle_of_busyCount_eq_zero {s : State} (h : busyCount s = 0) (u : UnitId) : (s.bank u).busy = false := by
  have hnil := List.filter_eq_nil_iff.mp (List.eq_nil_of_length_eq_zero h) u (by cases u <;> decide)
  simpa using hnil

theorem exists_firstBusy_of_busyCount_pos {s : State} (h : 0 < busyCount s) :
    ∃ u, firstBusy s = some u ∧ (s.bank u).busy = true := by
  obtain ⟨v, hv⟩ := List.exists_mem_of_length_pos h
  obtain ⟨u, hu⟩ := exists_find_unit (P := fun u => (s.bank u).busy) (List.mem_filter.mp hv).2
  exact ⟨u, hu, List.find?_some (p := fun u => (s.bank u).busy) hu⟩

theorem busyCount_eq (s : State) : busyCount s = s.fir.busy.toNat + s.iir.busy.toNat + s.win.busy.toNat := by
  simp only [busyCount, List.filter, State.bank_fir, State.bank_iir, State.bank_win]
  cases s.fir.busy <;> cases s.iir.busy <;> cases s.win.busy <;> rfl

section Turn
variable {s : State} {u : UnitId} (h : (s.bank u).busy = true) (fail : Option Nat)
include h

/-- An in-flight command is completed by its engine's turn. -/
theorem engineTurn_completes :
    ((engineTurn u fail s).bank u).busy = false ∧ ((engineTurn u fail s).bank u).done = true := by
  obtain ⟨p, hp⟩ := exists_pend_of_busy h
  rw [engineTurn_of_pend hp, State.withMem_bank, State.setBank_bank]
  exact ⟨rfl, rfl⟩

theorem engineTurn_bank_ne {v : UnitId} (hv : v ≠ u) : (engineTurn u fail s).bank v = s.bank v := by
  obtain ⟨p, hp⟩ := exists_pend_of_busy h
  rw [engineTurn_of_pend hp, State.withMem_bank, State.setBank_bank_ne s _ hv]

/-- A turn is no host access and no schedule step. -/
theorem engineTurn_host :
    (engineTurn u fail s).sched = s.sched ∧ (engineTurn u fail s).host = s.host ∧
      (engineTurn u fail s).received = s.received := by
  obtain ⟨p, hp⟩ := exists_pend_of_busy h
  rw [engineTurn_of_pend hp]
  simp

/-- One turn completes one command and leaves the other units as they are. -/
theorem busyCount_engineTurn : busyCount (engineTurn u fail s) + 1 = busyCount s := by
  have hself := (engineTurn_completes h fail).1
  have hother {v : UnitId} (hv : v ≠ u) : ((engineTurn u fail s).bank v).busy = (s.bank v).busy := by
    rw [engineTurn_bank_ne h fail hv]
  rw [busyCount_eq, busyCount_eq, ← State.bank_fir, ← State.bank_iir, ← State.bank_win, ← State.bank_fir s,
    ← State.bank_iir s, ← State.bank_win s]
  cases u with
  | fir => rw [hself, h, hother (v := .iir) (by decide), hother (v := .win) (by decide)]; simp; omega
  | iir => rw [hself, h, hother (v := .fir) (by decide), hother (v := .win) (by decide)]; simp; omega
  | win => rw [hself, h, hother (v := .fir) (by decide), hother (v := .iir) (by decide)]; simp

end Turn

theorem run_succ {M : Host.Core} {s s' : M.State} (h : M.step s = .next s') (n : Nat) :
    M.run (n + 1) s = M.run n s' := by simp only [Host.Core.run, h]

/-- Each step completes the first command in flight; a unit that has completed stays done. -/
theorem run_busyCount (n : Nat) (s : State) (hs : s.sched = []) (hn : busyCount s = n) :
    ∃ t : State, Host.Core.run core n s = .next t ∧ (∀ u, (t.bank u).busy = false) ∧ t.host = s.host ∧
      t.received = s.received ∧ ∀ u, (s.bank u).busy = true ∨ (s.bank u).done = true → (t.bank u).done = true := by
  induction n generalizing s with
  | zero =>
    have hidle := idle_of_busyCount_eq_zero hn
    exact ⟨s, rfl, hidle, rfl, rfl, fun u hu => hu.resolve_left (by simp [hidle u])⟩
  | succ n ih =>
    obtain ⟨u, hfirst, hbusy⟩ := exists_firstBusy_of_busyCount_pos (s := s) (by omega)
    have hcount := busyCount_engineTurn hbusy none
    obtain ⟨hsched, hhost, hreceived⟩ := engineTurn_host hbusy none
    obtain ⟨t, hrun, hidle, hhost', hreceived', hdone⟩ := ih (engineTurn u none s) (hsched.trans hs) (by omega)
    refine ⟨t, (run_succ (M := core) (step_exhausted hs hfirst) n).trans hrun, hidle, hhost'.trans hhost, hreceived'.trans hreceived,
      fun v hv => hdone v ?_⟩
    by_cases huv : v = u
    · rw [huv]; exact .inr (engineTurn_completes hbusy none).2
    · rwa [engineTurn_bank_ne hbusy none huv]

/-- Settles O60: the number of units in flight falls by one with each step. -/
theorem exhaustedScheduleDrains : Obligations.ExhaustedScheduleDrains := by
  intro s hs k
  obtain ⟨t, hrun, hidle, hhost, hreceived, hdone⟩ := run_busyCount k s hs rfl
  exact ⟨t, hrun, hidle, hhost, hreceived, fun u hu => hdone u (.inl hu)⟩

end Sys2Proof.Machine

/-! PROOFS. The registers on the bus: where an access goes, what each register read and write does, and that nothing else
changes (20_memory.md R130 to R143; 10_state.md R50, R61 to R66, R73 to R88; 40_common.md R250 to R256). -/

namespace Sys2Proof.Machine

/-! ### Routing -/

section Routing
variable {c : Params} {off width : Nat}

/-- Inside the window only aligned 32-bit accesses are register accesses. -/
theorem route_window (hoff : off < 0x400) :
    route c (c.blockBase + off) width = if width = 4 ∧ off % 4 = 0 then .register off else .badRegister := by
  rw [route, if_pos ⟨Nat.le_add_right _ _, Nat.add_lt_add_left hoff _⟩, Nat.add_sub_cancel_left]

theorem route_register (hoff : off < 0x400) (hal : off % 4 = 0) : route c (c.blockBase + off) 4 = .register off := by
  rw [route_window hoff, if_pos ⟨rfl, hal⟩]

theorem unitAt_bankOffset (u : UnitId) (hoff : off < 0x100) :
    unitAt (bankOffset u + off) = some u ∧ (bankOffset u + off) % 0x100 = off := by
  have hdiv : (bankOffset u + off) / 0x100 = bankOffset u / 0x100 ∧ (bankOffset u + off) % 0x100 = off := by
    cases u <;> simp only [bankOffset] <;> omega
  refine ⟨?_, hdiv.2⟩
  rw [unitAt, hdiv.1]
  cases u <;> rfl

theorem bankOffset_add_lt (u : UnitId) (hoff : off < 0x100) : bankOffset u + off < 0x400 := by
  cases u <;> simp only [bankOffset] <;> omega

theorem bankOffset_add_mod (u : UnitId) : (bankOffset u + off) % 4 = off % 4 := by
  cases u <;> simp only [bankOffset] <;> omega

theorem regAt_eq_none {n : Nat} (h : n = 0x3C ∨ 0x70 ≤ n) : regAt n = none := by
  unfold regAt
  split
  case h_28 => rfl
  all_goals omega

/-- A table of offsets and registers that follows the map (10_state.md R61). -/
theorem register_of_mem {map : List (Nat × Reg)} {r : Reg} (h : (off, r) ∈ map)
    (hmap : ∀ x ∈ map, x.1 < 0x100 ∧ x.1 % 4 = 0 ∧ regAt x.1 = some x.2) :
    off < 0x100 ∧ off % 4 = 0 ∧ regAt off = some r := hmap (off, r) h

/-- A reserved word is no register of any unit (10_state.md R63). -/
theorem reserved_word (hoff : off < 0x400) (h : 0x300 ≤ off ∨ off % 0x100 = 0x3C ∨ 0x70 ≤ off % 0x100) :
    unitAt off = none ∨ regAt (off % 0x100) = none := by
  rcases h with h | h
  · have hdiv : off / 0x100 = 3 := by omega
    exact .inl (by rw [unitAt, hdiv]; rfl)
  · exact .inr (regAt_eq_none h)

variable {s : State} {u : UnitId} {r : Reg} {w : Word}

theorem writeBlock_reg (hu : unitAt off = some u) (hr : regAt (off % 0x100) = some r) :
    writeBlock off w s =
      if r = .cmd then writeCmd u w s else .next (s.setBank u (writeReg s.cfg u r w (s.bank u))) := by
  unfold writeBlock
  rw [hu, hr]
  cases r <;> rfl

theorem readBlock_reg (hu : unitAt off = some u) (hr : regAt (off % 0x100) = some r) : readBlock off s = readReg s u r := by
  simp only [readBlock, hu, hr]

/-- Reserved words are RAZ/WI. -/
theorem block_reserved (h : unitAt off = none ∨ regAt (off % 0x100) = none) :
    writeBlock off w s = .next s ∧ readBlock off s = (0#32, s) := by
  unfold writeBlock readBlock
  rcases h with h | h
  · rw [h]; exact ⟨rfl, rfl⟩
  · rw [h]; cases unitAt off <;> exact ⟨rfl, rfl⟩

/-- A host access at a register's offset in a bank is the access to that register. -/
theorem hostWrite_reg {data : BitVec 64} (hoff : off < 0x100) (hal : off % 4 = 0) (hr : regAt off = some r) :
    hostWrite (s.cfg.blockBase + (bankOffset u + off)) 4 data s =
      if r = .cmd then writeCmd u (data.setWidth 32) s
      else .next (s.setBank u (writeReg s.cfg u r (data.setWidth 32) (s.bank u))) := by
  obtain ⟨hunit, hmod⟩ := unitAt_bankOffset u hoff
  rw [hostWrite, route_register (bankOffset_add_lt u hoff) (by rw [bankOffset_add_mod, hal])]
  exact writeBlock_reg hunit (by rw [hmod, hr])

theorem hostRead_reg (hoff : off < 0x100) (hal : off % 4 = 0) (hr : regAt off = some r) :
    hostRead (s.cfg.blockBase + (bankOffset u + off)) 4 s =
      .next ((readReg s u r).2.push (.data ((readReg s u r).1.setWidth 64))) := by
  obtain ⟨hunit, hmod⟩ := unitAt_bankOffset u hoff
  rw [hostRead, route_register (bankOffset_add_lt u hoff) (by rw [bankOffset_add_mod, hal])]
  dsimp only
  rw [readBlock_reg hunit (by rw [hmod, hr])]

end Routing

/-! ### The host's turn -/

section HostTurn
variable {s : State}

theorem step_host {rest : List Turn} (h : s.sched = .host :: rest) : step s = hostTurn (s.withSched rest) := by
  simp only [step, transition, h]

theorem firstBusy_eq_none (h : ∀ u, (s.bank u).busy = false) : firstBusy s = none := by
  rw [firstBusy, List.find?_eq_none]
  exact fun u _ => by simp [h u]

theorem step_idle (h : s.sched = []) (hidle : ∀ u, (s.bank u).busy = false) : step s = hostTurn s := by
  simp only [step, transition, h, firstBusy_eq_none hidle]

theorem hostTurn_write {addr width : Nat} {data : BitVec 64} {rest : List HostOp}
    (h : s.host = .write addr width data :: rest) : hostTurn s = hostWrite addr width data (s.withHost rest) := by
  rw [hostTurn, h]

theorem hostTurn_read {addr width : Nat} {rest : List HostOp} (h : s.host = .read addr width :: rest) :
    hostTurn s = hostRead addr width (s.withHost rest) := by rw [hostTurn, h]

theorem hostTurn_wait {u : UnitId} {rest : List HostOp} (h : s.host = .wait u :: rest) :
    hostTurn s = .next { s with
      host := if (s.bank u).busy then s.host else rest,
      received := .data ((statusWord (s.bank u)).setWidth 64) :: s.received } := by
  rw [hostTurn, h]
  dsimp only
  rw [hostWait]
  cases (s.bank u).busy with
  | true => rw [if_pos rfl, if_pos rfl, ← h]; rfl
  | false => rfl

theorem hostTurn_nil (h : s.host = []) : hostTurn s = .next s := by rw [hostTurn, h]

/-- A CMD write on the bus is the CMD write of the decoded word. -/
theorem hostWrite_cmd {u : UnitId} {w : Word} {i : Instr} (h : decode s.cfg.hasDesign u w = .command i) :
    hostWrite (cmdAddress s.cfg.blockBase u) 4 (w.setWidth 64) s = exec i s := by
  have hword : (w.setWidth 64).setWidth 32 = w := by simp
  rw [cmdAddress, Nat.add_assoc, hostWrite_reg (u := u) (off := 0x14) (r := .cmd) (by decide) (by decide) rfl, if_pos rfl,
    hword, writeCmd, h]

end HostTurn

/-- Settles O4: the host's turn makes the write, the address is the CMD register's, and the word decodes. -/
theorem stepRunsDecodedCommand : Obligations.StepRunsDecodedCommand := by
  intro s u w rest i hhost hdecode
  refine ⟨fun t hs => ?_, fun hs hidle => ?_⟩
  · rw [step_host hs, hostTurn_write (s := s.withSched t) hhost]
    exact hostWrite_cmd (s := (s.withSched t).withHost rest) hdecode
  · rw [step_idle hs hidle, hostTurn_write hhost]
    exact hostWrite_cmd (s := s.withHost rest) hdecode

/-! ### Accesses that change nothing else -/

/-- A register read changes at most its own unit's bank, and no memory. -/
theorem readReg_frame (s : State) (u : UnitId) (r : Reg) :
    (∀ v, v ≠ u → (readReg s u r).2.bank v = s.bank v) ∧ (readReg s u r).2.mem = s.mem := by
  have hself : (∀ v, v ≠ u → s.bank v = s.bank v) ∧ s.mem = s.mem := ⟨fun _ _ => rfl, rfl⟩
  have hraise (e : ErrCode) : (∀ v, v ≠ u → (s.raiseIn u e).bank v = s.bank v) ∧ (s.raiseIn u e).mem = s.mem :=
    ⟨fun v hv => State.setBank_bank_ne s _ hv, State.setBank_mem s u _⟩
  have htick : (∀ v, v ≠ u → s.tick.bank v = s.bank v) ∧ s.tick.mem = s.mem := ⟨fun v _ => State.tick_bank s v, rfl⟩
  have hword (f : FltReg) (word : Flt → Word) :
      (∀ v, v ≠ u → (readFltWord s u f word).2.bank v = s.bank v) ∧ (readFltWord s u f word).2.mem = s.mem := by
    cases f with
    | freqA | freqB | din => exact hself
    | dout => simp only [readFltWord, readDout]; split; exacts [hself, htick]
    | cdata => simp only [readFltWord]; split; exacts [hraise _, hself]
    | hdata => simp only [readFltWord]; split; exacts [hraise _, hself]
  cases r with
  | prog =>
    simp only [readReg, readProg]
    split
    · exact hself
    · exact ⟨fun v hv => (State.tick_bank _ v).trans (State.setBank_bank_ne s _ hv), State.setBank_mem s u _⟩
  | head =>
    cases u with
    | fir => simp only [readReg, readHead]; split_ifs; exacts [htick, hself]
    | iir | win => exact hself
  | lo f => exact hword f loWord
  | hi f => simp only [readReg]; split; exacts [hself, hword f hiWord]
  | id | size0 | size1 | ctrl | status | cmd | addr | addr2 | len | len2 | cidx | hidx | errAddr => exact hself

/-- The bytes of the data of a read are the bytes of memory. -/
theorem readBytes_data {m : Memory} {addr width : Nat} (hw : width ≤ 8) :
    (BitVec.ofNat 64 (readBytes m addr width)).toNat = readBytes m addr width ∧
      readBytes m addr width < 2 ^ (8 * width) := by
  have hlt := readBytes_lt width m addr
  have hpow : 256 ^ width = 2 ^ (8 * width) := by rw [pow_mul]; rfl
  have htop : 2 ^ (8 * width) ≤ 2 ^ 64 := Nat.pow_le_pow_right (by decide) (by omega)
  rw [hpow] at hlt
  exact ⟨by rw [BitVec.toNat_ofNat, Nat.mod_eq_of_lt (hlt.trans_le htop)], hlt⟩

/-- A host access outside the window and the in-flight ranges reaches memory (log 16). -/
theorem route_memory {c : Params} {addr width : Nat} (hw : width ∈ [1, 2, 4, 8]) (htop : addr + width ≤ 2 ^ 32)
    (hwin : addr + width ≤ c.blockBase ∨ c.blockBase + 0x400 ≤ addr) : route c addr width = .memory := by
  have hpos : 0 < width := by fin_cases hw <;> decide
  have hcases : width = 1 ∨ width = 2 ∨ width = 4 ∨ width = 8 := by simpa using hw
  rw [route, if_neg (by omega), if_pos ⟨hcases, htop, by omega⟩]

theorem route_outside {c : Params} {addr width : Nat} (hwin : addr < c.blockBase ∨ c.blockBase + 0x400 ≤ addr)
    (h : width ∉ [1, 2, 4, 8] ∨ 2 ^ 32 < addr + width ∨ (addr < c.blockBase ∧ c.blockBase < addr + width)) :
    route c addr width = .outside := by
  rw [route, if_neg (by omega), if_neg]
  rintro ⟨hw, htop, hstraddle⟩
  rcases h with h | h | h
  · exact h (by simpa using hw)
  · omega
  · exact hstraddle h

theorem hostRaceOf_eq_none {s : State} {addr width : Nat}
    (h : ∀ (v : UnitId) (q : Pend) (r : DmaRange), (s.bank v).pend = some q → r ∈ footprint s.cfg q →
      r.touches addr width = false) : hostRaceOf s addr width = none := by
  rw [hostRaceOf, List.find?_eq_none]
  intro v _
  unfold inFlightTouches
  split
  · decide
  · next q hq =>
    rw [List.any_eq_true]
    rintro ⟨r, hr, ht⟩
    rw [h v q r hq hr] at ht
    cases ht

/-- Settles O54: by the route of the address; then the host's turn item by item. -/
theorem hostAccessesFollowTheMap : Obligations.HostAccessesFollowTheMap := by
  refine ⟨fun s off width data hoff hbad => ?_, fun s u off r data hmap => ?_, fun s off data hoff hal hres => ?_,
    fun s addr width data hwf hw htop hwin hfree => ?_, fun s addr width data hwin hbad => ?_,
    fun s turns rest addr width data u hs => ?_, fun s hs hidle => ?_⟩
  · have hroute : route s.cfg (s.cfg.blockBase + off) width = .badRegister := by
      rw [route_window hoff, if_neg (by omega)]
    exact ⟨by rw [hostWrite, hroute], by rw [hostRead, hroute]⟩
  · intro bank t
    obtain ⟨hoff, hal, hreg⟩ := register_of_mem hmap (by decide)
    obtain ⟨hbank, hmem⟩ := readReg_frame s u r
    have hoffset : bank = bankOffset u := by cases u <;> rfl
    rw [hoffset, Nat.add_assoc]
    exact ⟨hostWrite_reg hoff hal hreg, hostRead_reg hoff hal hreg,
      fun v hv => ⟨State.setBank_bank_ne s _ hv, hbank v hv⟩, State.setBank_mem s u _, hmem⟩
  · obtain ⟨hwrite, hread⟩ := block_reserved (w := data.setWidth 32) (s := s) (reserved_word hoff hres)
    refine ⟨?_, ?_⟩
    · rw [hostWrite, route_register hoff hal]; exact hwrite
    · rw [hostRead, route_register hoff hal]; dsimp only; rw [hread]; rfl
  · have hroute := route_memory hw htop hwin
    have hrace := hostRaceOf_eq_none hfree
    have hle : width ≤ 8 := by fin_cases hw <;> decide
    obtain ⟨hdata, hlt⟩ := readBytes_data (m := s.mem) (addr := addr) hle
    refine ⟨⟨writeBytes s.mem addr width data.toNat, by simp only [hostWrite, hroute, hrace]; rfl, fun j hj => ?_,
      fun a ha => memGet_writeBytes_outside _ _ _ _ _ ha⟩,
      BitVec.ofNat 64 (readBytes s.mem addr width), by simp only [hostRead, hroute, hrace]; rfl, fun j hj => ?_,
      hdata.trans_lt hlt⟩
    · rw [memGet_writeBytes_inside _ _ _ _ _ hwf hj, extractLsb'_byte]
    · rw [extractLsb'_byte, hdata, readBytes_byte _ _ _ _ hj]
  · have hroute := route_outside hwin hbad
    exact ⟨by rw [hostWrite, hroute]; rfl, by rw [hostRead, hroute]; rfl⟩
  · rw [step_host hs]
    refine ⟨fun h => hostTurn_write (s := s.withSched turns) h, fun h => hostTurn_read (s := s.withSched turns) h,
      fun h => ?_, fun h => hostTurn_nil (s := s.withSched turns) h⟩
    rw [hostTurn_wait (s := s.withSched turns) h, State.withSched_bank]
    rfl
  · rw [step_idle hs hidle, step_host (s := s.withSched [.host]) rfl]
    have hback : (s.withSched [.host]).withSched [] = s := State.withSched_self hs
    rw [hback]

end Sys2Proof.Machine

/-! PROOFS. The registers one by one: what is stored and read back, the state access checks, and the reads while busy
(10_state.md R61 to R91, 40_common.md R250 to R256, 70_reset_and_hazards.md R562). -/

namespace Sys2Proof.Machine

theorem ctrlWord_toNat (b : Bank) : (ctrlWord b).toNat = b.doneIe.toNat * 2 ^ 0 + b.errIe.toNat * 2 ^ 1 := by
  have hdone := b.doneIe.toNat_lt
  have herr := b.errIe.toNat_lt
  rw [ctrlWord, flagAt_eq, flagAt_eq]
  exact toNat_ofNat_word (by omega)

theorem ctrlWord_fields (b : Bank) :
    (ctrlWord b).getLsbD 0 = b.doneIe ∧ (ctrlWord b).getLsbD 1 = b.errIe ∧ (ctrlWord b).extractLsb' 2 30 = 0#30 := by
  have hdone := b.doneIe.toNat_lt
  have herr := b.errIe.toNat_lt
  have hword := ctrlWord_toNat b
  refine ⟨getLsbD_eq_of_digit ?_, getLsbD_eq_of_digit ?_, field_eq_of_digit ?_⟩ <;> omega

/-- DOUT is read-only in both formats. -/
theorem writeReg_dout (c : Params) (u : UnitId) (w : Word) (b : Bank) :
    writeReg c u (.lo .dout) w b = b ∧ writeReg c u (.hi .dout) w b = b := by
  cases hf : c.fmt with
  | b32 => exact ⟨writeReg_lo_b32 u .dout w b hf, writeReg_hi_b32 u .dout w b hf⟩
  | b64 => exact ⟨writeReg_lo_b64 u .dout w b hf, writeReg_hi_b64 u .dout w b hf⟩

theorem readReg_prog_of_idle {s : State} {u : UnitId} (h : (s.bank u).busy = false) :
    readReg s u .prog = ((s.bank u).prog, s) := by
  simp only [readReg, readProg, pend_eq_none_of_idle h]

/-- Settles O47: one register at a time; the format chooses the word that commits. -/
theorem registerAccessClasses : Obligations.RegisterAccessClasses := by
  intro s u w b write
  refine ⟨⟨rfl, rfl, rfl, rfl, rfl, rfl, rfl⟩, fun h32 => ?_, fun h64 => ?_,
    ⟨rfl, rfl, rfl, rfl, rfl, rfl, rfl, rfl, readReg_prog_of_idle⟩, ⟨rfl, ctrlWord_fields b⟩, fun r hr => ?_, fun r hr => ?_,
    fun hu => ?_, fun off hoff hal hres => block_reserved (reserved_word hoff hres), rfl⟩
  · have hlo (r : FltReg) : write (.lo r) = commitFlt s.cfg u r (w.setWidth 64) b := writeReg_lo_b32 u r w b h32
    have hhi (r : FltReg) : write (.hi r) = b := writeReg_hi_b32 u r w b h32
    exact ⟨hlo .freqA, hlo .freqB, hlo .din, hhi .freqA, hhi .freqB, hhi .din⟩
  · have hlo (r : FltReg) : write (.lo r) = b.setStage r w := writeReg_lo_b64 u r w b h64
    have hhi (r : FltReg) : write (.hi r) = commitFlt s.cfg u r (w ++ b.stage r) b := writeReg_hi_b64 u r w b h64
    exact ⟨hlo .freqA, hlo .freqB, hlo .din, hhi .freqA, hhi .freqB, hhi .din⟩
  · rcases hr with rfl | rfl | rfl | rfl | rfl | rfl <;>
      simp only [readReg, State.setBank_bank] <;> rfl
  · obtain ⟨hlo, hhi⟩ := writeReg_dout s.cfg u w b
    rcases hr with rfl | rfl | rfl | rfl | rfl | rfl | rfl
    exacts [rfl, rfl, rfl, rfl, rfl, hlo, hhi]
  · cases u with
    | fir => exact absurd rfl hu
    | iir | win => exact ⟨rfl, rfl⟩

section StateAccess
variable {s : State} {u : UnitId}

theorem readFltWord_cdata_of_stop {e : ErrCode} (h : cdataStop s.cfg u (s.bank u) = some e) (word : Flt → Word) :
    readFltWord s u .cdata word = (0#32, s.raiseIn u e) := by simp only [readFltWord, h]

theorem readFltWord_hdata_of_stop {e : ErrCode} (h : hdataStop s.cfg u (s.bank u) = some e) (word : Flt → Word) :
    readFltWord s u .hdata word = (0#32, s.raiseIn u e) := by simp only [readFltWord, h]

/-- The state a committing write of CDATA or HDATA leaves, by the format. -/
theorem commit_of_write {r : FltReg} {w : Word} :
    (s.cfg.fmt = .b32 → writeReg s.cfg u (.lo r) w (s.bank u) = commitFlt s.cfg u r (w.setWidth 64) (s.bank u)) ∧
    (s.cfg.fmt = .b64 →
      writeReg s.cfg u (.hi r) w (s.bank u) = commitFlt s.cfg u r (w ++ (s.bank u).stage r) (s.bank u)) :=
  ⟨writeReg_lo_b32 u r w (s.bank u), writeReg_hi_b64 u r w (s.bank u)⟩

theorem cdataStop_busy (h : (s.bank u).busy = true) : cdataStop s.cfg u (s.bank u) = some .busy := if_pos h

theorem hdataStop_busy (h : (s.bank u).busy = true) : hdataStop s.cfg u (s.bank u) = some .busy := if_pos h

theorem cdataStop_oob (h : (s.bank u).busy = false) (hidx : s.cfg.nc u ≤ (s.bank u).cidx.toNat) :
    cdataStop s.cfg u (s.bank u) = some .indexOob := by simp [cdataStop, h, hidx]

theorem hdataStop_oob (h : (s.bank u).busy = false) (hidx : s.cfg.nh u ≤ (s.bank u).hidx.toNat) :
    hdataStop s.cfg u (s.bank u) = some .indexOob := by simp [hdataStop, h, hidx]

/-- A refused CDATA access: the reads return 0, the committing write records the error. -/
theorem cdata_refused {e : ErrCode} (h : cdataStop s.cfg u (s.bank u) = some e) (w : Word) :
    readReg s u (.lo .cdata) = (0#32, s.raiseIn u e) ∧
    (s.cfg.fmt = .b32 → writeReg s.cfg u (.lo .cdata) w (s.bank u) = (s.bank u).raise e) ∧
    (s.cfg.fmt = .b64 → readReg s u (.hi .cdata) = (0#32, s.raiseIn u e) ∧
      writeReg s.cfg u (.hi .cdata) w (s.bank u) = (s.bank u).raise e) := by
  have hcommit (v : Flt) : commitFlt s.cfg u .cdata v (s.bank u) = (s.bank u).raise e := by simp only [commitFlt, h]
  refine ⟨readFltWord_cdata_of_stop h _, fun hf => (commit_of_write.1 hf).trans (hcommit _), fun hf => ⟨?_,
    (commit_of_write.2 hf).trans (hcommit _)⟩⟩
  rw [readReg_hi_b64 s u _ hf, readFltWord_cdata_of_stop h]

/-- A refused HDATA access: the reads return 0, the committing write records the error. -/
theorem hdata_refused {e : ErrCode} (h : hdataStop s.cfg u (s.bank u) = some e) (w : Word) :
    readReg s u (.lo .hdata) = (0#32, s.raiseIn u e) ∧
    (s.cfg.fmt = .b32 → writeReg s.cfg u (.lo .hdata) w (s.bank u) = (s.bank u).raise e) ∧
    (s.cfg.fmt = .b64 → readReg s u (.hi .hdata) = (0#32, s.raiseIn u e) ∧
      writeReg s.cfg u (.hi .hdata) w (s.bank u) = (s.bank u).raise e) := by
  have hcommit (v : Flt) : commitFlt s.cfg u .hdata v (s.bank u) = (s.bank u).raise e := by simp only [commitFlt, h]
  refine ⟨readFltWord_hdata_of_stop h _, fun hf => (commit_of_write.1 hf).trans (hcommit _), fun hf => ⟨?_,
    (commit_of_write.2 hf).trans (hcommit _)⟩⟩
  rw [readReg_hi_b64 s u _ hf, readFltWord_hdata_of_stop h]

/-- A CDATA access of an idle unit in range. -/
theorem cdata_accepted (h : (s.bank u).busy = false) (hidx : (s.bank u).cidx.toNat < s.cfg.nc u) (w : Word) :
    readReg s u (.lo .cdata) = (((s.bank u).coef.getD (s.bank u).cidx.toNat fltZero).setWidth 32, s) ∧
    (s.cfg.fmt = .b32 → writeReg s.cfg u (.lo .cdata) w (s.bank u) =
      { s.bank u with coef := (s.bank u).coef.set (s.bank u).cidx.toNat (w.setWidth 64) }) ∧
    (s.cfg.fmt = .b64 →
      readReg s u (.hi .cdata) = (((s.bank u).coef.getD (s.bank u).cidx.toNat fltZero).extractLsb' 32 32, s) ∧
      writeReg s.cfg u (.hi .cdata) w (s.bank u) =
        { s.bank u with coef := (s.bank u).coef.set (s.bank u).cidx.toNat (w ++ (s.bank u).stCdata) }) := by
  have hcommit (v : Flt) : commitFlt s.cfg u .cdata v (s.bank u) =
      { s.bank u with coef := (s.bank u).coef.set (s.bank u).cidx.toNat v } := by
    rw [commitFlt_cdata, h, if_neg Bool.false_ne_true, if_neg hidx.not_ge]
  exact ⟨(readReg_lo s u .cdata).trans (readFltWord_cdata_of_lt _ h hidx),
    fun hf => (commit_of_write.1 hf).trans (hcommit _),
    fun hf => ⟨(readReg_hi_b64 s u .cdata hf).trans (readFltWord_cdata_of_lt _ h hidx),
      (commit_of_write.2 hf).trans (hcommit _)⟩⟩

/-- An HDATA access of an idle unit in range. -/
theorem hdata_accepted (h : (s.bank u).busy = false) (hidx : (s.bank u).hidx.toNat < s.cfg.nh u) (w : Word) :
    readReg s u (.lo .hdata) = (((s.bank u).hist.getD (s.bank u).hidx.toNat fltZero).setWidth 32, s) ∧
    (s.cfg.fmt = .b32 → writeReg s.cfg u (.lo .hdata) w (s.bank u) =
      { s.bank u with hist := (s.bank u).hist.set (s.bank u).hidx.toNat (w.setWidth 64) }) ∧
    (s.cfg.fmt = .b64 →
      readReg s u (.hi .hdata) = (((s.bank u).hist.getD (s.bank u).hidx.toNat fltZero).extractLsb' 32 32, s) ∧
      writeReg s.cfg u (.hi .hdata) w (s.bank u) =
        { s.bank u with hist := (s.bank u).hist.set (s.bank u).hidx.toNat (w ++ (s.bank u).stHdata) }) := by
  have hcommit (v : Flt) : commitFlt s.cfg u .hdata v (s.bank u) =
      { s.bank u with hist := (s.bank u).hist.set (s.bank u).hidx.toNat v } := by
    rw [commitFlt_hdata, h, if_neg Bool.false_ne_true, if_neg hidx.not_ge]
  exact ⟨(readReg_lo s u .hdata).trans (readFltWord_hdata_of_lt _ h hidx),
    fun hf => (commit_of_write.1 hf).trans (hcommit _),
    fun hf => ⟨(readReg_hi_b64 s u .hdata hf).trans (readFltWord_hdata_of_lt _ h hidx),
      (commit_of_write.2 hf).trans (hcommit _)⟩⟩

/-- A HEAD write in the FIR bank: BUSY, then INDEX_OOB, then the store. -/
theorem writeReg_head_fir (c : Params) (b : Bank) (w : Word) :
    writeReg c .fir .head w b =
      if b.busy then b.raise .busy else if c.firSize ≤ w.toNat then b.raise .indexOob else { b with head := w.toNat } := by
  simp only [writeReg, headStop]
  split_ifs <;> rfl

end StateAccess

/-- Settles O48: for each of CDATA and HDATA a refused and an accepted access; HEAD by its three cases. -/
theorem stateAccessFollowsItsChecks : Obligations.StateAccessFollowsItsChecks := by
  intro s u w b recorded stored coef hist
  have hstored {r : Reg} {b' : Bank} (h : writeReg s.cfg u r w b = b') : stored r = s.setBank u b' :=
    congrArg (s.setBank u) h
  refine ⟨fun hbusy => ?_, fun hidle hoob => ?_, fun hidle hidx => ?_, fun hidle hoob => ?_, fun hidle hidx => ?_,
    fun hu hidle => ?_⟩
  · obtain ⟨hcread, hcw32, hc64⟩ := cdata_refused (cdataStop_busy hbusy) w
    obtain ⟨hhread, hhw32, hh64⟩ := hdata_refused (hdataStop_busy hbusy) w
    refine ⟨hcread, hhread, fun hf => ⟨hstored (hcw32 hf), hstored (hhw32 hf)⟩, fun hf =>
      ⟨(hc64 hf).1, (hh64 hf).1, hstored (hc64 hf).2, hstored (hh64 hf).2⟩, fun hu => hstored ?_⟩
    subst hu
    rw [writeReg_head_fir, if_pos hbusy]; rfl
  · obtain ⟨hread, hw32, h64⟩ := cdata_refused (cdataStop_oob hidle hoob) w
    exact ⟨hread, fun hf => hstored (hw32 hf), fun hf => ⟨(h64 hf).1, hstored (h64 hf).2⟩⟩
  · obtain ⟨hread, hw32, h64⟩ := cdata_accepted hidle hidx w
    exact ⟨hread, fun hf => hstored (hw32 hf), fun hf => ⟨(h64 hf).1, hstored (h64 hf).2⟩⟩
  · obtain ⟨hread, hw32, h64⟩ := hdata_refused (hdataStop_oob hidle hoob) w
    exact ⟨hread, fun hf => hstored (hw32 hf), fun hf => ⟨(h64 hf).1, hstored (h64 hf).2⟩⟩
  · obtain ⟨hread, hw32, h64⟩ := hdata_accepted hidle hidx w
    exact ⟨hread, fun hf => hstored (hw32 hf), fun hf => ⟨(h64 hf).1, hstored (h64 hf).2⟩⟩
  · subst hu
    have hnot : ¬ b.busy = true := by simp [hidle]
    refine ⟨?_, fun hoob => hstored ?_, fun hidx => hstored ?_⟩
    · simp only [readReg, readHead]
      exact if_neg hnot
    · rw [writeReg_head_fir, if_neg hnot, if_pos hoob]; rfl
    · rw [writeReg_head_fir, if_neg hnot, if_neg hidx.not_ge]

/-- A DOUT word read while busy. -/
theorem readFltWord_dout_of_pend {s : State} {u : UnitId} {p : Pend} (h : (s.bank u).pend = some p) (word : Flt → Word) :
    readFltWord s u .dout word =
      (if Config.doutDraw s.freeCtr then word (outcomeOf s u p).dout else word (s.bank u).dout, s.tick) := by
  simp only [readFltWord, readDout, h]

theorem readFltWord_dout_old_or_new {s : State} {u : UnitId} {p : Pend} (h : (s.bank u).pend = some p)
    (word : Flt → Word) :
    ((readFltWord s u .dout word).1 = word (s.bank u).dout ∨
      (readFltWord s u .dout word).1 = word (outcomeOf s u p).dout) ∧ (readFltWord s u .dout word).2 = s.tick := by
  rw [readFltWord_dout_of_pend h]
  refine ⟨?_, rfl⟩
  split_ifs
  · exact .inr rfl
  · exact .inl rfl

theorem readReg_prog_of_pend {s : State} {u : UnitId} {p : Pend} (h : (s.bank u).pend = some p) :
    readReg s u .prog =
      (BitVec.ofNat 32 (progWhileBusy s.freeCtr (s.bank u).progSeen (outcomeOf s u p).prog.toNat),
        (s.setBank u { s.bank u with
          progSeen := progWhileBusy s.freeCtr (s.bank u).progSeen (outcomeOf s u p).prog.toNat }).tick) := by
  simp only [readReg, readProg, h]

/-- Settles O53: HEAD is a remainder by FIR_SIZE, PROG lies within `progWhileBusy`'s bounds, DOUT is one of two words. -/
theorem busyReadsAreBounded : Obligations.BusyReadsAreBounded := by
  refine ⟨fun s hlegal hbusy => ?_, fun s u p hp => ?_, fun s u p hp => ?_⟩
  · have hread : readReg s .fir .head = (BitVec.ofNat 32 (Config.headDraw s.freeCtr % s.cfg.firSize), s.tick) :=
      if_pos hbusy
    have hlt := Nat.mod_lt (Config.headDraw s.freeCtr) (firSize_pos_of_legal hlegal)
    rw [hread]
    exact ⟨(toNat_ofNat_word (hlt.trans (sizes_lt_of_legal hlegal).1)).trans_lt hlt, rfl⟩
  · intro final v hseen
    obtain ⟨hlo, hhi⟩ := progWhileBusy_bounds s.freeCtr hseen
    have hv : v = progWhileBusy s.freeCtr (s.bank u).progSeen final := by
      simp only [v, readReg_prog_of_pend hp]
      exact toNat_ofNat_word (hhi.trans_lt (outcomeOf s u p).prog.isLt)
    rw [hv, readReg_prog_of_pend hp]
    exact ⟨hlo, hhi, rfl⟩
  · obtain ⟨hlo, hlostate⟩ := readFltWord_dout_old_or_new hp (·.setWidth 32)
    rw [readReg_lo]
    refine ⟨hlo, hlostate, fun h64 => ?_⟩
    rw [readReg_hi_b64 s u _ h64]
    exact readFltWord_dout_old_or_new hp hiWord

theorem statusWord_reset (c : Params) (u : UnitId) (draws : Nat) : statusWord (Bank.reset c u draws) = 0#32 := by
  simp [statusWord, Bank.reset, flagAt, errField, Bank.busy]

/-- Settles O56: every bank is the reset bank, from which each register reads its reset value. -/
theorem resetLeavesTheStatedState : Obligations.ResetLeavesTheStatedState := by
  unfold Obligations.ResetLeavesTheStatedState
  intro isReset
  have hreset {c : Params} {s : State} (hcfg : s.cfg = c) {draws : UnitId → Nat}
      (hbank : ∀ u, s.bank u = Bank.reset c u (draws u)) : isReset c s := by
    refine ⟨State.irq_eq_false_of_reset hbank, fun u => ?_⟩
    rw [hbank u]
    subst hcfg
    refine ⟨?_, rfl, rfl, rfl, rfl, ⟨rfl, rfl, rfl, rfl, rfl⟩, rfl, statusWord_reset _ _ _, rfl, rfl, rfl, rfl, rfl,
      rfl, rfl, rfl, ⟨rfl, rfl, rfl, rfl⟩, rfl, rfl, rfl⟩
    cases u <;> rfl
  refine ⟨fun s => hreset rfl (blockReset_bank s), fun c => hreset rfl (State.resetOf_bank c),
    hreset rfl (State.resetOf_bank Params.default), fun s rest hs => ?_⟩
  simp only [step, transition, hs]

end Sys2Proof.Machine

/-! PROOFS. What an engine depends on: two banks in a relation that every engine update keeps lead to equal memories and
banks in that relation (10_state.md R95, R96; 70_reset_and_hazards.md R564). -/

namespace Sys2Proof.Machine

/-- A bus error as one record update. -/
theorem busError_eq (b : Bank) (a : Nat) :
    b.busError a = { b with
      err := some (b.err.getD .busError)
      errAddr := if b.err.isNone then BitVec.ofNat 32 a else b.errAddr } := by
  unfold Bank.busError Bank.recordErrAddr
  split <;> rfl

/-- A relation between banks whose coefficients, history, head and counter agree, kept by every update of an engine. -/
structure EngineRel (R : Bank → Bank → Prop) : Prop where
  coefEq   : ∀ {b b'}, R b b' → b.coef = b'.coef
  histEq   : ∀ {b b'}, R b b' → b.hist = b'.hist
  headEq   : ∀ {b b'}, R b b' → b.head = b'.head
  drawsEq  : ∀ {b b'}, R b b' → b.draws = b'.draws
  coef     : ∀ {b b'} {v v'}, v = v' → R b b' → R { b with coef := v } { b' with coef := v' }
  hist     : ∀ {b b'} {v v'}, v = v' → R b b' → R { b with hist := v } { b' with hist := v' }
  head     : ∀ {b b'} {v v'}, v = v' → R b b' → R { b with head := v } { b' with head := v' }
  draws    : ∀ {b b'} {v v'}, v = v' → R b b' → R { b with draws := v } { b' with draws := v' }
  dout     : ∀ {b b'} {v v'}, v = v' → R b b' → R { b with dout := v } { b' with dout := v' }
  prog     : ∀ {b b'} k, R b b' → R (b.setProg k) (b'.setProg k)
  busError : ∀ {b b'} a, R b b' → R (b.busError a) (b'.busError a)

section Relation
variable {R : Bank → Bank → Prop} (hR : EngineRel R) {b b' : Bank} (h : R b b')
include hR h

theorem EngineRel.useDraws {n n' : Nat} (hn : n = n') : R (b.useDraws n) (b'.useDraws n') :=
  hR.draws (by rw [hR.drawsEq h, hn]) h

/-- The FIR's sample step reads and writes only what the relation fixes. -/
theorem EngineRel.stepFir (c : Params) (x : Flt) :
    R (stepFir c b x).1 (stepFir c b' x).1 ∧ (stepFir c b x).2 = (stepFir c b' x).2 := by
  have hhist : b.hist.set b.head x = b'.hist.set b'.head x := by rw [hR.histEq h, hR.headEq h]
  have hhead : (b.head + 1) % c.firSize = (b'.head + 1) % c.firSize := by rw [hR.headEq h]
  refine ⟨hR.useDraws (hR.head hhead (hR.hist hhist h)) (n := 2 * c.firSize) rfl, ?_⟩
  unfold Machine.stepFir
  rw [hR.coefEq h, hR.histEq h, hR.headEq h, hR.drawsEq h]

/-- The IIR's sample step reads and writes only what the relation fixes. -/
theorem EngineRel.stepIir (c : Params) (x : Flt) :
    R (stepIir c b x).1 (stepIir c b' x).1 ∧ (stepIir c b x).2 = (stepIir c b' x).2 := by
  have hhist : (Machine.stepIir c b x).1.hist = (Machine.stepIir c b' x).1.hist := by
    unfold Machine.stepIir
    rw [hR.coefEq h, hR.histEq h, hR.drawsEq h]
  refine ⟨hR.useDraws (hR.hist hhist h) (n := 2 * c.numB + 2 * c.numA + 1) rfl, ?_⟩
  unfold Machine.stepIir
  rw [hR.coefEq h, hR.histEq h, hR.drawsEq h]

theorem EngineRel.windowSample (c : Params) (x : Flt) (k : Nat) :
    R (windowSample c b x k).1 (windowSample c b' x k).1 ∧ (windowSample c b x k).2 = (windowSample c b' x k).2 := by
  refine ⟨hR.useDraws h rfl, ?_⟩
  unfold Machine.windowSample
  rw [hR.coefEq h, hR.drawsEq h]

omit h in
theorem EngineRel.processLoop {f : Fmt} {u : UnitId} {sample : Bank → Flt → Nat → Bank × Flt} {base : Nat}
    {fail : Option Nat}
    (hs : ∀ {b b'} x k, R b b' → R (sample b x k).1 (sample b' x k).1 ∧ (sample b x k).2 = (sample b' x k).2) (n k : Nat)
    {b b' : Bank} (m : Memory) (h : R b b') :
    R (processLoop f u sample base fail n k b m).1 (processLoop f u sample base fail n k b' m).1 ∧
      (processLoop f u sample base fail n k b m).2 = (processLoop f u sample base fail n k b' m).2 := by
  induction n generalizing k b b' m with
  | zero => exact ⟨h, rfl⟩
  | succ n ih =>
    obtain ⟨hbank, hout⟩ := hs (readFlt f m (elemAddr f base k)) k h
    unfold Machine.processLoop
    dsimp only
    split_ifs
    · exact ⟨hR.busError _ h, rfl⟩
    · exact ⟨hR.busError _ (hR.useDraws hbank rfl), by rw [hR.drawsEq hbank]⟩
    · rw [hout]
      exact ih _ _ (hR.prog _ hbank)

omit h in
theorem EngineRel.storeLoop {f : Fmt} {u : UnitId} {base : Nat} {fail : Option Nat} (vs : List Flt) (k : Nat)
    {b b' : Bank} (m : Memory) (h : R b b') :
    R (storeLoop f u base fail vs k b m).1 (storeLoop f u base fail vs k b' m).1 ∧
      (storeLoop f u base fail vs k b m).2 = (storeLoop f u base fail vs k b' m).2 := by
  induction vs generalizing k b b' m with
  | nil => exact ⟨h, rfl⟩
  | cons v vs ih =>
    unfold Machine.storeLoop
    dsimp only
    split_ifs
    · exact ⟨hR.busError _ (hR.useDraws h rfl), by rw [hR.drawsEq h]⟩
    · exact ih _ _ (hR.prog _ h)

theorem EngineRel.getFactors (f : Fmt) (u : UnitId) (n : Nat) (p : Pend) (fail : Option Nat) (m : Memory) :
    R (getFactors f u n p fail b m).1 (getFactors f u n p fail b' m).1 ∧
      (getFactors f u n p fail b m).2 = (getFactors f u n p fail b' m).2 := by
  have hvector : coefVector b n = coefVector b' n := by simp only [coefVector, hR.coefEq h]
  unfold Machine.getFactors
  rw [hvector]
  exact hR.storeLoop _ _ _ h

theorem EngineRel.setFactors (f : Fmt) (n : Nat) (p : Pend) (fail : Option Nat) (m : Memory) :
    R (setFactors f n p fail b m).1 (setFactors f n p fail b' m).1 ∧
      (setFactors f n p fail b m).2 = (setFactors f n p fail b' m).2 := by
  have hload := hR.prog n (hR.coef (v := readVector f m p.addr.toNat n) rfl h)
  unfold Machine.setFactors
  split
  · split_ifs
    · exact ⟨hR.busError _ (hR.prog _ h), rfl⟩
    · exact ⟨hload, rfl⟩
  · exact ⟨hload, rfl⟩

theorem EngineRel.setupTable (t : Table) (c : Params) : R (setupTable t c b) (setupTable t c b') := by
  unfold Machine.setupTable
  split_ifs
  · exact h
  · exact hR.coef rfl h

end Relation

/-- Related banks stay related through an engine, which leaves the same memory. -/
theorem engineOf_rel {R : Bank → Bank → Prop} (hR : EngineRel R) (i : Instr) (c : Params) (p : Pend) (fail : Option Nat)
    (m : Memory) {b b' : Bank} (h : R b b') :
    R (engineOf i c p fail b m).1 (engineOf i c p fail b' m).1 ∧
      (engineOf i c p fail b m).2 = (engineOf i c p fail b' m).2 := by
  cases i with
  | firProcess => exact hR.processLoop (fun x _ h => hR.stepFir h c x) _ _ _ h
  | iirProcess => exact hR.processLoop (fun x _ h => hR.stepIir h c x) _ _ _ h
  | winProcess => exact hR.processLoop (fun x k h => hR.windowSample h c x k) _ _ _ h
  | firProcess1 =>
    obtain ⟨hbank, hout⟩ := hR.stepFir h c p.din
    exact ⟨hR.dout hout hbank, rfl⟩
  | iirProcess1 =>
    obtain ⟨hbank, hout⟩ := hR.stepIir h c p.din
    exact ⟨hR.dout hout hbank, rfl⟩
  | firReset => exact ⟨hR.head (v := 0) rfl (hR.hist (v := List.replicate c.firSize fltZero) rfl h), rfl⟩
  | iirReset =>
    have hhist := hR.hist (v := List.replicate (c.numB + c.numA) fltZero) rfl h
    exact ⟨hR.coef (v := List.replicate (c.numB + c.numA) fltZero) rfl hhist, rfl⟩
  | firSetFactors | iirSetFactors | winSetFactors => exact hR.setFactors h _ _ _ _ _
  | firGetFactors | iirGetFactors | winGetFactors => exact hR.getFactors h _ _ _ _ _ _
  | firDesignLowpass | firDesignHighpass | firDesignBandpass =>
    exact ⟨hR.useDraws (hR.coef (by rw [hR.drawsEq h]) h) rfl, rfl⟩
  | iirSetCoeffs =>
    have hload : R (loadCoeffs c p b m) (loadCoeffs c p b' m) := hR.prog _ (hR.coef rfl h)
    simp only [engineOf, engineIirSetCoeffs]
    split
    · split_ifs
      · exact ⟨hR.busError _ (hR.prog _ h), rfl⟩
      · exact ⟨hload, rfl⟩
    · exact ⟨hload, rfl⟩
  | winSetupRect => exact ⟨hR.coef rfl h, rfl⟩
  | winSetupHamming | winSetupHann | winSetupBlackman => exact ⟨hR.setupTable h _ c, rfl⟩

/-- Equal coefficients, history, head and counter. -/
def SameCore (b b' : Bank) : Prop := b.coef = b'.coef ∧ b.hist = b'.hist ∧ b.head = b'.head ∧ b.draws = b'.draws

theorem engineRel_sameCore : EngineRel SameCore where
  coefEq h := h.1
  histEq h := h.2.1
  headEq h := h.2.2.1
  drawsEq h := h.2.2.2
  coef hv h := ⟨hv, h.2⟩
  hist hv h := ⟨h.1, hv, h.2.2⟩
  head hv h := ⟨h.1, h.2.1, hv, h.2.2.2⟩
  draws hv h := ⟨h.1, h.2.1, h.2.2.1, hv⟩
  dout _ h := h
  prog _ h := h
  busError _ h := by simpa [SameCore] using h

/-- The registers of o that no engine writes over the fields of b that engines, acceptance and completion write. -/
def Bank.overlay (o b : Bank) : Bank :=
  { o with
    coef := b.coef, hist := b.hist, head := b.head, draws := b.draws, dout := b.dout, prog := b.prog, err := b.err
    errAddr := b.errAddr, pend := b.pend, done := b.done }

theorem overlay_of_sameRegs {b b' : Bank} (h : SameRegs b b') : b.overlay b' = b' := by
  obtain ⟨-, hdoneIe, herrIe, -, haddr, haddr2, hlen, hlen2, hcidx, hhidx, hfreqA, hfreqB, hdin, hstFreqA, hstFreqB, hstDin,
    hstCdata, hstHdata, hprogSeen⟩ := h
  unfold Bank.overlay
  rw [← hdoneIe, ← herrIe, ← haddr, ← haddr2, ← hlen, ← hlen2, ← hcidx, ← hhidx, ← hfreqA, ← hfreqB, ← hdin, ← hstFreqA,
    ← hstFreqB, ← hstDin, ← hstCdata, ← hstHdata, ← hprogSeen]

theorem engineRel_overlay (o : Bank) : EngineRel (fun b b' => b' = o.overlay b) where
  coefEq h := h ▸ rfl
  histEq h := h ▸ rfl
  headEq h := h ▸ rfl
  drawsEq h := h ▸ rfl
  coef hv h := h ▸ hv ▸ rfl
  hist hv h := h ▸ hv ▸ rfl
  head hv h := h ▸ hv ▸ rfl
  draws hv h := h ▸ hv ▸ rfl
  dout hv h := h ▸ hv ▸ rfl
  prog _ h := h ▸ rfl
  busError _ h := by
    subst h
    rw [busError_eq, busError_eq]
    rfl

/-- A write to a register that latching reads, to CTRL or to an index writes nothing an engine writes. -/
theorem writeReg_overlay {r : Reg} (hr : r ∈ [Reg.addr, .addr2, .len, .len2, .lo .freqA, .hi .freqA, .lo .freqB,
    .hi .freqB, .lo .din, .hi .din, .ctrl, .cidx, .hidx]) (c : Params) (u : UnitId) (w : Word) (o b : Bank) :
    writeReg c u r w (o.overlay b) = (writeReg c u r w o).overlay b := by
  obtain ⟨fmt, -⟩ := c
  cases fmt <;> fin_cases hr <;> rfl

/-- Settles O55: equality of the core is kept by every engine; so is "written to a register no engine reads". -/
theorem fullStateDeterminesResults : Obligations.FullStateDeterminesResults := by
  refine ⟨fun i c p fail m b b' hcoef hhist hhead hdraws => ?_, fun s u fail r w hbusy hr => ?_⟩
  · have hcore : SameCore b b' := ⟨hcoef, hhist, hhead, hdraws⟩
    obtain ⟨⟨hcoef', hhist', hhead', hdraws'⟩, hmem⟩ := engineOf_rel engineRel_sameCore i c p fail m hcore
    refine ⟨hcoef', hhist', hhead', hdraws', hmem, ?_⟩
    rintro (rfl | rfl)
    · exact (engineRel_sameCore.stepFir hcore c p.din).2
    · exact (engineRel_sameCore.stepIir hcore c p.din).2
  · intro write
    obtain ⟨p, hp⟩ := exists_pend_of_busy hbusy
    have hwrite := writeReg_overlay hr s.cfg u w (s.bank u)
    have hrel : writeReg s.cfg u r w (s.bank u) = (writeReg s.cfg u r w (s.bank u)).overlay (s.bank u) :=
      hwrite (s.bank u)
    obtain ⟨hbank, hmem⟩ := engineOf_rel (engineRel_overlay _) p.op s.cfg p fail s.mem hrel
    have hcomplete := hwrite (engineOf p.op s.cfg p fail (s.bank u) s.mem).1.complete
    have hself : (s.bank u).overlay (engineOf p.op s.cfg p fail (s.bank u) s.mem).1.complete =
        (engineOf p.op s.cfg p fail (s.bank u) s.mem).1.complete :=
      congrArg Bank.complete (overlay_of_sameRegs (engineOf_sameRegs p.op s.cfg p fail (s.bank u) s.mem))
    rw [hself] at hcomplete
    have hpend : ((write s).bank u).pend = some p := by
      rw [State.setBank_bank, (sameFlight_writeReg r w).1, hp]
    rw [engineTurn_of_pend hpend, engineTurn_of_pend hp]
    simp only [write, State.setBank_bank, State.setBank_cfg, State.setBank_mem, State.withMem_bank]
    rw [hcomplete, hbank, ← hmem]
    cases u <;> rfl

end Sys2Proof.Machine

/-! PROOFS. The processing loop and the write loop with and without a bus error: the loop up to the failing access, then
what that access does (40_common.md R242 to R244, R261; 41_fir.md R310, 43_iir.md R410, 44_window.md R470;
60_exceptions.md R501, R503). -/

namespace Sys2Proof.Machine

/-! ### The loop up to the failing access -/

section Split
variable {f : Fmt} {u : UnitId} {base : Nat}

/-- A failed read stops the loop after the elements before it. -/
theorem processLoop_readFails (sample : Bank → Flt → Nat → Bank × Flt) (k : Nat) {n : Nat} (hk : k < n) (j : Nat)
    (b : Bank) (m : Memory) :
    processLoop f u sample base (some (2 * (j + k))) n j b m =
      ((processLoop f u sample base none k j b m).1.busError (elemAddr f base (j + k)),
        (processLoop f u sample base none k j b m).2) := by
  induction k generalizing n j b m with
  | zero =>
    obtain ⟨n, rfl⟩ := Nat.exists_eq_add_of_lt hk
    rw [processLoop]
    exact if_pos rfl
  | succ k ih =>
    obtain ⟨n, rfl⟩ := Nat.exists_eq_add_of_lt hk
    have hread : some (2 * (j + (k + 1))) ≠ some (2 * j) := by simp
    have hwrite : some (2 * (j + (k + 1))) ≠ some (2 * j + 1) := by rw [Ne, Option.some_inj]; omega
    rw [show k + 1 + n + 1 = (k + n + 1) + 1 by omega, processLoop, processLoop]
    simp only [hread, hwrite, reduceCtorEq, if_false]
    rw [show j + (k + 1) = j + 1 + k by omega]
    exact ih (by omega) _ _ _

/-- A failed write stops the loop with the element's sample taken and its bytes open. -/
theorem processLoop_writeFails (sample : Bank → Flt → Nat → Bank × Flt) (k : Nat) {n : Nat} (hk : k < n) (j : Nat)
    (b : Bank) (m : Memory) :
    processLoop f u sample base (some (2 * (j + k) + 1)) n j b m =
      let r := processLoop f u sample base none k j b m
      let y := sample r.1 (readFlt f r.2 (elemAddr f base (j + k))) (j + k)
      ((y.1.useDraws 1).busError (elemAddr f base (j + k)), failedStore f u y.1.draws r.2 (elemAddr f base (j + k))) := by
  induction k generalizing n j b m with
  | zero =>
    obtain ⟨n, rfl⟩ := Nat.exists_eq_add_of_lt hk
    have hread : some (2 * (j + 0) + 1) ≠ some (2 * j) := by rw [Ne, Option.some_inj]; omega
    rw [Nat.zero_add]
    conv_lhs => rw [processLoop]
    exact (if_neg hread).trans (if_pos rfl)
  | succ k ih =>
    obtain ⟨n, rfl⟩ := Nat.exists_eq_add_of_lt hk
    have hread : some (2 * (j + (k + 1)) + 1) ≠ some (2 * j) := by rw [Ne, Option.some_inj]; omega
    have hwrite : some (2 * (j + (k + 1)) + 1) ≠ some (2 * j + 1) := by rw [Ne, Option.some_inj]; omega
    rw [show k + 1 + n + 1 = (k + n + 1) + 1 by omega, processLoop, processLoop]
    simp only [hread, hwrite, reduceCtorEq, if_false]
    rw [show j + (k + 1) = j + 1 + k by omega]
    exact ih (by omega) _ _ _

/-- A failed write stops the write loop of GET_FACTORS after the entries before it. -/
theorem storeLoop_fails (vs : List Flt) (k : Nat) (hk : k < vs.length) (j : Nat) (b : Bank) (m : Memory) :
    storeLoop f u base (some (j + k)) vs j b m =
      let r := storeLoop f u base none (vs.take k) j b m
      ((r.1.useDraws 1).busError (elemAddr f base (j + k)), failedStore f u r.1.draws r.2 (elemAddr f base (j + k))) := by
  induction k generalizing vs j b m with
  | zero =>
    obtain ⟨v, vs, rfl⟩ := List.exists_cons_of_length_pos hk
    rw [storeLoop]
    exact if_pos rfl
  | succ k ih =>
    obtain ⟨v, vs, rfl⟩ := List.exists_cons_of_length_pos (Nat.zero_lt_of_lt hk)
    have hne : some (j + (k + 1)) ≠ some j := by simp
    rw [List.take_succ_cons, storeLoop, storeLoop]
    simp only [hne, reduceCtorEq, if_false]
    rw [show j + (k + 1) = j + 1 + k by omega]
    exact ih vs (by simpa using hk) _ _ _

/-- An access past the last one never comes. -/
theorem storeLoop_of_fail_ge {fail : Option Nat} (vs : List Flt) (j : Nat) (hf : ∀ k, fail = some k → j + vs.length ≤ k)
    (b : Bank) (m : Memory) : storeLoop f u base fail vs j b m = storeLoop f u base none vs j b m := by
  induction vs generalizing j b m with
  | nil => rfl
  | cons v vs ih =>
    have hne : fail ≠ some j := fun h => by have := hf j h; simp at this
    rw [storeLoop, storeLoop]
    simp only [hne, reduceCtorEq, if_false]
    exact ih _ (fun k hk => by have := hf k hk; simp only [List.length_cons] at this; omega) _ _

end Split

/-! ### The loop without a bus error -/

theorem elemAddr_zero (f : Fmt) (base : Nat) : elemAddr f base 0 = base := by simp [elemAddr]

theorem readVector_length (f : Fmt) (m : Memory) (base n : Nat) : (readVector f m base n).length = n := by
  simp [readVector]

theorem readVector_concat (f : Fmt) (m : Memory) (base n : Nat) :
    readVector f m base (n + 1) = readVector f m base n ++ [readFlt f m (elemAddr f base n)] := by
  simp [readVector, List.range_succ]

/-- A value read depends on its own bytes only. -/
theorem readFlt_congr {f : Fmt} {m m' : Memory} {a : Nat}
    (h : ∀ x, a ≤ x → x < a + fltBytes f → memGet m' x = memGet m x) : readFlt f m' a = readFlt f m a := by
  rw [readFlt, readFlt, readBytes_congr _ m m' a h]

/-- Setting a bank's in-flight record and PROG. -/
def Bank.atElement (b : Bank) (p : Pend) (k : Nat) : Bank := (b.accept p).setProg k

theorem accept_eq_atElement (b : Bank) (p : Pend) : b.accept p = b.atElement p 0 := rfl

/-- A bank with the history, head and counter of another. -/
def Bank.withHistory (b r : Bank) : Bank := { b with hist := r.hist, head := r.head, draws := r.draws }

/-- A sample step of PROCESS: it delivers encodings, writes the history, the head and the counter, and looks at neither
the in-flight record nor PROG. -/
structure SampleStep (f : Fmt) (step : Bank → Flt → Bank × Flt) : Prop where
  fits    : ∀ b x, Fits f (step b x).2
  setProg : ∀ b x k, step (b.setProg k) x = ((step b x).1.setProg k, (step b x).2)
  accept  : ∀ b x p, step (b.accept p) x = ((step b x).1.accept p, (step b x).2)
  frame   : ∀ b x, (step b x).1 = b.withHistory (step b x).1

theorem sampleStep_fir (c : Params) : SampleStep c.fmt (stepFir c) :=
  ⟨stepFir_fits c, fun _ _ _ => rfl, fun _ _ _ => rfl, fun _ _ => rfl⟩

theorem sampleStep_iir (c : Params) : SampleStep c.fmt (stepIir c) :=
  ⟨stepIir_fits c, fun _ _ _ => rfl, fun _ _ _ => rfl, fun _ _ => rfl⟩

section Stream
variable {f : Fmt} {step : Bank → Flt → Bank × Flt}

theorem filterStream_concat (b : Bank) (xs : List Flt) (x : Flt) :
    filterStream step b (xs ++ [x]) =
      ((step (filterStream step b xs).1 x).1, (filterStream step b xs).2 ++ [(step (filterStream step b xs).1 x).2]) := by
  induction xs generalizing b with
  | nil => rfl
  | cons y xs ih => simp only [List.cons_append, filterStream, ih]

theorem filterStream_length (b : Bank) (xs : List Flt) : (filterStream step b xs).2.length = xs.length := by
  induction xs generalizing b with
  | nil => rfl
  | cons x xs ih => simp only [filterStream, List.length_cons, ih]

variable (hstep : SampleStep f step)
include hstep

theorem filterStream_accept (b : Bank) (p : Pend) (xs : List Flt) :
    filterStream step (b.accept p) xs = ((filterStream step b xs).1.accept p, (filterStream step b xs).2) := by
  induction xs generalizing b with
  | nil => rfl
  | cons x xs ih => simp only [filterStream, hstep.accept, ih]

theorem filterStream_frame (b : Bank) (xs : List Flt) :
    (filterStream step b xs).1 = b.withHistory (filterStream step b xs).1 := by
  induction xs generalizing b with
  | nil => rfl
  | cons x xs ih =>
    have hb := congrArg (Bank.withHistory · (filterStream step (step b x).1 xs).1) (hstep.frame b x)
    exact (ih _).trans hb

/-- PROCESS up to element k: the stream's outputs in the buffer, its bank at element k, every other byte unchanged. -/
theorem processLoop_stream_accept (u : UnitId) (base k : Nat) (b : Bank) (p : Pend) {m : Memory}
    (hwf : Memory.wf m = true) :
    ∃ m', processLoop f u (fun b x _ => step b x) base none k 0 (b.accept p) m =
        ((filterStream step b (readVector f m base k)).1.atElement p k, m') ∧
      readVector f m' base k = (filterStream step b (readVector f m base k)).2 ∧ Memory.wf m' = true ∧
      ∀ a, a < base ∨ elemAddr f base k ≤ a → memGet m' a = memGet m a := by
  obtain ⟨m', hloop, hread, hwf', hout⟩ := processLoop_stream f u step base hstep.fits hstep.setProg k 0 (b.accept p) m hwf
  rw [elemAddr_zero] at hloop hread hout
  rw [filterStream_accept hstep] at hloop hread
  refine ⟨m', ?_, hread, hwf', hout⟩
  rw [hloop, Nat.zero_add]
  cases k <;> rfl

end Stream

/-! ### PROCESS of FIR and IIR -/

/-- Command i is PROCESS with the sample step `step`. -/
structure IsStream (c : Params) (i : Instr) (step : Bank → Flt → Bank × Flt) : Prop where
  sample : SampleStep c.fmt step
  engine : ∀ p fail b m, engineOf i c p fail b m =
    processLoop c.fmt i.unit (fun b x _ => step b x) p.addr.toNat fail p.len.toNat 0 b m

theorem isStream_fir (c : Params) : IsStream c .firProcess (stepFir c) := ⟨sampleStep_fir c, fun _ _ _ _ => rfl⟩

theorem isStream_iir (c : Params) : IsStream c .iirProcess (stepIir c) := ⟨sampleStep_iir c, fun _ _ _ _ => rfl⟩

theorem State.setBank_withMem (s : State) (u : UnitId) (b : Bank) (m : Memory) :
    (s.setBank u b).withMem m = (s.withMem m).setBank u b := by cases u <;> rfl

/-- A ready command whose engine leaves bank b' and memory m completes with them. -/
theorem exec_of_engine {i : Instr} {s : State} {fail : Option Nat} {rest : List Turn} {b' : Bank} {m : Memory}
    (hready : Ready i s) (hn : engineNext i.unit s.sched = some (fail, rest))
    (he : engineOf i s.cfg (s.latched i) fail ((s.bank i.unit).accept (s.latched i)) s.mem = (b', m)) :
    exec i s = .next (((s.withSched rest).withMem m).setBank i.unit b'.complete) := by
  rw [exec_ready_now hready hn, he, State.setBank_withMem]

section Completed
variable {b r : Bank} (h : r = b.withHistory r) (p : Pend) (k : Nat)
include h

/-- A stream's bank, completed after element k. -/
theorem atElement_complete :
    (r.atElement p k).complete = { b with
      hist := r.hist, head := r.head, draws := r.draws, prog := BitVec.ofNat 32 k, pend := none, done := true
      progSeen := 0 } := by
  rw [h]; rfl

/-- A stream's bank, completed by a bus error at element k. -/
theorem atElement_busError_complete (a : Nat) :
    ((r.atElement p k).busError a).complete = { b with
      hist := r.hist, head := r.head, draws := r.draws, prog := BitVec.ofNat 32 k
      err := some (b.err.getD .busError)
      errAddr := if b.err.isNone then BitVec.ofNat 32 a else b.errAddr
      pend := none, done := true, progSeen := 0 } := by
  rw [h, busError_eq]; rfl

end Completed

section Streams
variable {i : Instr} {s : State} {step : Bank → Flt → Bank × Flt} {rest : List Turn}

/-- PROCESS without bus error: the outputs of the stream in the buffer, its bank in the unit. -/
theorem stream_completes (hi : IsStream s.cfg i step) (hwf : Memory.wf s.mem = true) (hready : Ready i s)
    (hn : engineNext i.unit s.sched = some (none, rest)) :
    let b := s.bank i.unit
    let r := filterStream step b (readVector s.cfg.fmt s.mem b.addr.toNat b.len.toNat)
    ∃ m, exec i s = .next (((s.withSched rest).withMem m).setBank i.unit { b with
        hist := r.1.hist, head := r.1.head, draws := r.1.draws, prog := b.len, pend := none, done := true, progSeen := 0 }) ∧
      readVector s.cfg.fmt m b.addr.toNat b.len.toNat = r.2 ∧
      ∀ a, a < b.addr.toNat ∨ elemAddr s.cfg.fmt b.addr.toNat b.len.toNat ≤ a → memGet m a = memGet s.mem a := by
  intro b r
  obtain ⟨m, hloop, hread, -, hout⟩ :=
    processLoop_stream_accept hi.sample i.unit b.addr.toNat b.len.toNat b (s.latched i) hwf
  have he := (hi.engine (s.latched i) none (b.accept (s.latched i)) s.mem).trans hloop
  have hprog : BitVec.ofNat 32 b.len.toNat = b.len := by simp
  refine ⟨m, (exec_of_engine hready hn he).trans ?_, hread, hout⟩
  rw [atElement_complete (filterStream_frame hi.sample b _), hprog]

/-- PROCESS with a failed read of element k: the stream of the k samples before it, and the error. -/
theorem stream_readFails (hi : IsStream s.cfg i step) (hwf : Memory.wf s.mem = true) (hready : Ready i s) {k : Nat}
    (hk : k < (s.bank i.unit).len.toNat) (hn : engineNext i.unit s.sched = some (some (2 * k), rest)) :
    let b := s.bank i.unit
    let base := b.addr.toNat
    let r := filterStream step b (readVector s.cfg.fmt s.mem base k)
    ∃ m, exec i s = .next (((s.withSched rest).withMem m).setBank i.unit { b with
        hist := r.1.hist, head := r.1.head, draws := r.1.draws, prog := BitVec.ofNat 32 k
        err := some (b.err.getD .busError)
        errAddr := if b.err.isNone then BitVec.ofNat 32 (elemAddr s.cfg.fmt base k) else b.errAddr
        pend := none, done := true, progSeen := 0 }) ∧
      readVector s.cfg.fmt m base k = r.2 ∧
      ∀ a, a < base ∨ elemAddr s.cfg.fmt base k ≤ a → memGet m a = memGet s.mem a := by
  intro b base r
  obtain ⟨m, hloop, hread, -, hout⟩ := processLoop_stream_accept hi.sample i.unit base k b (s.latched i) hwf
  have hfails := processLoop_readFails (u := i.unit) (f := s.cfg.fmt) (base := base) (fun b x _ => step b x) k hk 0
    (b.accept (s.latched i)) s.mem
  rw [Nat.zero_add, hloop] at hfails
  have he := (hi.engine (s.latched i) (some (2 * k)) (b.accept (s.latched i)) s.mem).trans hfails
  refine ⟨m, (exec_of_engine hready hn he).trans ?_, hread, hout⟩
  rw [atElement_busError_complete (filterStream_frame hi.sample b _)]

/-- PROCESS with a failed write of element k: the stream of k + 1 samples, the last one's bytes open, and the error. -/
theorem stream_writeFails (hi : IsStream s.cfg i step) (hwf : Memory.wf s.mem = true) (hready : Ready i s) {k : Nat}
    (hk : k < (s.bank i.unit).len.toNat) (hn : engineNext i.unit s.sched = some (some (2 * k + 1), rest)) :
    let b := s.bank i.unit
    let base := b.addr.toNat
    let r := filterStream step b (readVector s.cfg.fmt s.mem base (k + 1))
    ∃ m, exec i s = .next (((s.withSched rest).withMem m).setBank i.unit { b with
        hist := r.1.hist, head := r.1.head, draws := r.1.draws + 1, prog := BitVec.ofNat 32 k
        err := some (b.err.getD .busError)
        errAddr := if b.err.isNone then BitVec.ofNat 32 (elemAddr s.cfg.fmt base k) else b.errAddr
        pend := none, done := true, progSeen := 0 }) ∧
      readVector s.cfg.fmt m base k = (filterStream step b (readVector s.cfg.fmt s.mem base k)).2 ∧
      ∀ a, a < base ∨ elemAddr s.cfg.fmt base (k + 1) ≤ a → memGet m a = memGet s.mem a := by
  intro b base r
  obtain ⟨m, hloop, hread, -, hout⟩ := processLoop_stream_accept hi.sample i.unit base k b (s.latched i) hwf
  have hnext := elemAddr_succ s.cfg.fmt base k
  have hx : readFlt s.cfg.fmt m (elemAddr s.cfg.fmt base k) = readFlt s.cfg.fmt s.mem (elemAddr s.cfg.fmt base k) :=
    readFlt_congr fun a ha _ => hout a (.inr ha)
  have hr : r.1 = (step (filterStream step b (readVector s.cfg.fmt s.mem base k)).1
      (readFlt s.cfg.fmt s.mem (elemAddr s.cfg.fmt base k))).1 := by
    simp only [r]
    rw [readVector_concat, filterStream_concat]
  have hfails := processLoop_writeFails (u := i.unit) (f := s.cfg.fmt) (base := base) (fun b x _ => step b x) k hk 0
    (b.accept (s.latched i)) s.mem
  simp only [Nat.zero_add, hloop, hx, Bank.atElement, hi.sample.setProg, hi.sample.accept, ← hr] at hfails
  have he := (hi.engine (s.latched i) (some (2 * k + 1)) (b.accept (s.latched i)) s.mem).trans hfails
  have hframe : r.1.useDraws 1 = b.withHistory (r.1.useDraws 1) :=
    congrArg (Bank.useDraws · 1) (filterStream_frame hi.sample b _)
  refine ⟨_, (exec_of_engine hready hn he).trans
    (congrArg (fun b' => Host.Outcome.next (State.setBank _ i.unit b'))
      (atElement_busError_complete hframe (s.latched i) k _)), ?_, fun a ha => ?_⟩
  · rw [← hread]
    refine readVector_congr _ _ _ _ _ fun a _ ha => ?_
    exact memGet_writeFlt_outside _ _ _ _ _ (.inl ha)
  · have hbase : base ≤ elemAddr s.cfg.fmt base k := Nat.le_add_right _ _
    have hoff : a < base ∨ elemAddr s.cfg.fmt base k + fltBytes s.cfg.fmt ≤ a := hnext ▸ ha
    rw [failedStore, memGet_writeFlt_outside _ _ _ _ _ (hoff.imp hbase.trans_lt' id)]
    exact hout a (hoff.imp id (Nat.le_add_right _ _).trans)

end Streams

theorem stepIir_head (c : Params) (b : Bank) (xs : List Flt) : (filterStream (stepIir c) b xs).1.head = b.head := by
  induction xs generalizing b with
  | nil => rfl
  | cons x xs ih => exact ih _

/-- Settles O21: PROCESS as a stream, with the FIR's sample step. -/
theorem firProcessFiltersBuffer : Obligations.FirProcessFiltersBuffer := by
  intro s rest hwf hready hn
  exact stream_completes (isStream_fir s.cfg) hwf hready hn

/-- Settles O35: PROCESS as a stream, with the IIR's sample step, which leaves the head alone. -/
theorem iirProcessFiltersBuffer : Obligations.IirProcessFiltersBuffer := by
  intro s rest hwf hready hn f base len r
  obtain ⟨m, hexec, hread, hout⟩ := stream_completes (isStream_iir s.cfg) hwf hready hn
  refine ⟨m, hexec.trans ?_, hread, hout⟩
  rw [stepIir_head]
  rfl

/-! ### PROCESS of WIN -/

theorem useDraws_one_useDraws (b : Bank) (n : Nat) : (b.useDraws 1).useDraws n = b.useDraws (n + 1) := by
  unfold Bank.useDraws
  rw [Nat.add_assoc, Nat.add_comm 1 n]

/-- The window loop over n elements from element k on: each element times its coefficient, every other byte unchanged. -/
theorem processLoop_window (c : Params) (base : Nat) (p : Pend) (n k : Nat) (b : Bank) {m : Memory}
    (hwf : Memory.wf m = true) :
    ∃ m', processLoop c.fmt .win (windowSample c) base none n k (b.atElement p k) m =
        ((b.useDraws n).atElement p (k + n), m') ∧
      (∀ j, j < n → readFlt c.fmt m' (elemAddr c.fmt base (k + j)) =
        fmul c.fmt (Config.nanDraw .win (b.draws + j)) (readFlt c.fmt m (elemAddr c.fmt base (k + j)))
          (b.coef.getD (k + j) fltZero)) ∧
      ∀ a, a < elemAddr c.fmt base k ∨ elemAddr c.fmt base (k + n) ≤ a → memGet m' a = memGet m a := by
  induction n generalizing k b m with
  | zero => exact ⟨m, rfl, fun j hj => absurd hj (Nat.not_lt_zero j), fun _ _ => rfl⟩
  | succ n ih =>
    have hnext := elemAddr_succ c.fmt base k
    have hend := elemAddr_mono c.fmt base (show k + 1 ≤ k + (n + 1) by omega)
    let y := fmul c.fmt (Config.nanDraw .win b.draws) (readFlt c.fmt m (elemAddr c.fmt base k)) (b.coef.getD k fltZero)
    obtain ⟨m', hloop, hread, hout⟩ := ih (k + 1) (b.useDraws 1) (writeFlt_wf c.fmt m (elemAddr c.fmt base k) y hwf)
    rw [Nat.add_right_comm k 1 n, Nat.add_assoc k n 1] at hout
    refine ⟨m', ?_, fun j hj => ?_, fun a ha => ?_⟩
    · rw [useDraws_one_useDraws, Nat.add_right_comm k 1 n] at hloop
      exact hloop
    · cases j with
      | zero =>
        rw [Nat.add_zero, Nat.add_zero, readFlt_congr fun a _ ha => hout a (.inl (by omega))]
        exact readFlt_writeFlt_same _ _ _ _ hwf (fmul_fits _ _ _ _)
      | succ j =>
        have hfar := elemAddr_mono c.fmt base (show k + 1 ≤ k + 1 + j by omega)
        have hj' := hread j (by omega)
        rw [readFlt_writeFlt_outside _ _ _ _ _ (.inr (by omega)), Bank.useDraws_draws, Nat.add_right_comm k 1 j,
          Nat.add_right_comm b.draws 1 j] at hj'
        exact hj'
    · rw [hout a (by omega), memGet_writeFlt_outside _ _ _ _ _ (by omega)]

/-- PROCESS of WIN up to element k. -/
theorem processLoop_window_accept (c : Params) (base k : Nat) (b : Bank) (p : Pend) {m : Memory}
    (hwf : Memory.wf m = true) :
    ∃ m', processLoop c.fmt .win (windowSample c) base none k 0 (b.accept p) m = ((b.useDraws k).atElement p k, m') ∧
      (∀ j, j < k → readFlt c.fmt m' (elemAddr c.fmt base j) =
        fmul c.fmt (Config.nanDraw .win (b.draws + j)) (readFlt c.fmt m (elemAddr c.fmt base j)) (b.coef.getD j fltZero)) ∧
      ∀ a, a < base ∨ elemAddr c.fmt base k ≤ a → memGet m' a = memGet m a := by
  obtain ⟨m', hloop, hread, hout⟩ := processLoop_window c base p k 0 b hwf
  simp only [Nat.zero_add, elemAddr_zero] at hloop hread hout
  exact ⟨m', hloop, hread, hout⟩

section Window
variable {s : State} {rest : List Turn} (hwf : Memory.wf s.mem = true) (hready : Ready .winProcess s)
include hwf hready

/-- The sample a memory holds at element j of the WIN buffer is the windowed one. -/
def WindowedAt (s : State) (m : Memory) (j : Nat) : Prop :=
  readFlt s.cfg.fmt m (elemAddr s.cfg.fmt s.win.addr.toNat j) =
    fmul s.cfg.fmt (Config.nanDraw .win (s.win.draws + j))
      (readFlt s.cfg.fmt s.mem (elemAddr s.cfg.fmt s.win.addr.toNat j)) (s.win.coef.getD j fltZero)

theorem window_completes (hn : engineNext .win s.sched = some (none, rest)) :
    ∃ m, exec .winProcess s = .next (((s.withSched rest).withMem m).setBank .win { s.win with
        draws := s.win.draws + s.win.len.toNat, prog := BitVec.ofNat 32 s.win.len.toNat, pend := none, done := true, progSeen := 0 }) ∧
      (∀ j, j < s.win.len.toNat → WindowedAt s m j) ∧
      ∀ a, a < s.win.addr.toNat ∨ elemAddr s.cfg.fmt s.win.addr.toNat s.win.len.toNat ≤ a →
        memGet m a = memGet s.mem a := by
  obtain ⟨m, hloop, hread, hout⟩ :=
    processLoop_window_accept s.cfg s.win.addr.toNat s.win.len.toNat s.win (s.latched .winProcess) hwf
  exact ⟨m, exec_of_engine (i := .winProcess) hready hn hloop, hread, hout⟩

theorem window_readFails {k : Nat} (hk : k < s.win.len.toNat)
    (hn : engineNext .win s.sched = some (some (2 * k), rest)) :
    ∃ m, exec .winProcess s = .next (((s.withSched rest).withMem m).setBank .win { s.win with
        draws := s.win.draws + k, prog := BitVec.ofNat 32 k
        err := some (s.win.err.getD .busError)
        errAddr := if s.win.err.isNone then BitVec.ofNat 32 (elemAddr s.cfg.fmt s.win.addr.toNat k) else s.win.errAddr
        pend := none, done := true, progSeen := 0 }) ∧
      (∀ j, j < k → WindowedAt s m j) ∧
      ∀ a, a < s.win.addr.toNat ∨ elemAddr s.cfg.fmt s.win.addr.toNat k ≤ a → memGet m a = memGet s.mem a := by
  obtain ⟨m, hloop, hread, hout⟩ := processLoop_window_accept s.cfg s.win.addr.toNat k s.win (s.latched .winProcess) hwf
  have hfails := processLoop_readFails (u := .win) (f := s.cfg.fmt) (base := s.win.addr.toNat) (windowSample s.cfg) k hk 0
    (s.win.accept (s.latched .winProcess)) s.mem
  rw [Nat.zero_add, hloop] at hfails
  refine ⟨m, (exec_of_engine (i := .winProcess) hready hn hfails).trans ?_, hread, hout⟩
  rw [atElement_busError_complete (b := s.win.useDraws k) rfl]
  rfl

theorem window_writeFails {k : Nat} (hk : k < s.win.len.toNat)
    (hn : engineNext .win s.sched = some (some (2 * k + 1), rest)) :
    ∃ m, exec .winProcess s = .next (((s.withSched rest).withMem m).setBank .win { s.win with
        draws := s.win.draws + (k + 1) + 1, prog := BitVec.ofNat 32 k
        err := some (s.win.err.getD .busError)
        errAddr := if s.win.err.isNone then BitVec.ofNat 32 (elemAddr s.cfg.fmt s.win.addr.toNat k) else s.win.errAddr
        pend := none, done := true, progSeen := 0 }) ∧
      (∀ j, j < k → WindowedAt s m j) ∧
      ∀ a, a < s.win.addr.toNat ∨ elemAddr s.cfg.fmt s.win.addr.toNat (k + 1) ≤ a → memGet m a = memGet s.mem a := by
  obtain ⟨m, hloop, hread, hout⟩ := processLoop_window_accept s.cfg s.win.addr.toNat k s.win (s.latched .winProcess) hwf
  have hnext := elemAddr_succ s.cfg.fmt s.win.addr.toNat k
  have hfails := processLoop_writeFails (u := .win) (f := s.cfg.fmt) (base := s.win.addr.toNat) (windowSample s.cfg) k hk 0
    (s.win.accept (s.latched .winProcess)) s.mem
  simp only [Nat.zero_add, hloop] at hfails
  refine ⟨_, (exec_of_engine (i := .winProcess) hready hn hfails).trans (congrArg (fun b' =>
    Host.Outcome.next (State.setBank _ .win b')) (atElement_busError_complete (b := s.win.useDraws (k + 1 + 1))
      (r := s.win.useDraws (k + 1 + 1)) rfl (s.latched .winProcess) k _)), fun j hj => ?_, fun a ha => ?_⟩
  · have hend := elemAddr_mono s.cfg.fmt s.win.addr.toNat (show j + 1 ≤ k from hj)
    rw [elemAddr_succ] at hend
    exact (readFlt_writeFlt_outside _ _ _ _ _ (.inl hend)).trans (hread j hj)
  · have hbase := elemAddr_mono s.cfg.fmt s.win.addr.toNat (Nat.zero_le k)
    rw [elemAddr_zero] at hbase
    rw [failedStore, memGet_writeFlt_outside _ _ _ _ _ (by omega), hout a (by omega)]

end Window

/-- A validated PROCESS of WIN has LEN = WIN_SIZE. -/
theorem win_len_of_ready {s : State} (h : Ready .winProcess s) : s.win.len.toNat = s.cfg.winSize :=
  (of_checkBuffer_eq_none h.valid).2.2.1 _ rfl

/-- Settles O40: the window loop over the whole buffer. -/
theorem windowProcessMultiplies : Obligations.WindowProcessMultiplies := by
  intro s rest hwf hready hn b f base n
  obtain ⟨m, hexec, hread, hout⟩ := window_completes hwf hready hn
  rw [win_len_of_ready hready] at hexec hread hout
  exact ⟨m, hexec, hread, hout⟩

/-- Settles O22: the loop up to the failing access, then that access, for a stream and for the window. -/
theorem processStopsAtBusError : Obligations.ProcessStopsAtBusError := by
  intro i s rest k hwf hready hk b f base stopped readFails writeFails untouched
  refine ⟨fun step hi => ?_, fun hi => ?_⟩
  · have hstream : IsStream s.cfg i step := by
      rcases hi with ⟨rfl, rfl⟩ | ⟨rfl, rfl⟩
      · exact isStream_fir s.cfg
      · exact isStream_iir s.cfg
    exact ⟨stream_readFails hstream hwf hready hk, stream_writeFails hstream hwf hready hk⟩
  · subst hi
    exact ⟨window_readFails hwf hready hk, window_writeFails hwf hready hk⟩

end Sys2Proof.Machine

/-! PROOFS. Coefficient readback and the rectangular window (40_common.md R261; 44_window.md R471). -/

namespace Sys2Proof.Machine

/-! ### The rectangular window -/

section One
variable (f : Fmt) (q : BitVec 64)

theorem isFinite_fltOne : isFinite f (fltOne f) = true := by cases f <;> decide

theorem fltNeg_fltOne : fltNeg f (fltOne f) = false := by cases f <;> decide

theorem isZero_fltOne : isZero f (fltOne f) = false := by cases f <;> decide

/-- Multiplying a finite value by ONE is exact. -/
theorem fmul_fltOne_of_isFinite {x : Flt} (hfit : Fits f x) (hfin : isFinite f x = true) : fmul f q x (fltOne f) = x := by
  have hmag : fltMag f x ≤ infMag f := (of_decide_eq_true hfin).le
  rw [fmul_of_isFinite f q hfin (isFinite_fltOne f), fltUnits_fltOne, fltUnits,
    roundMag_magUnits f (Nat.two_pow_pos _) hmag, fltNeg_fltOne, Bool.bne_false, packFlt_eta f x hfit]

/-- Multiplying a value that is no NaN by ONE gives it back. -/
theorem fmul_fltOne {x : Flt} (hfit : Fits f x) (hnan : isNaN f x = false) : fmul f q x (fltOne f) = x := by
  cases hinf : isInf f x with
  | false => exact fmul_fltOne_of_isFinite f q hfit (isFinite_of_not_nan_inf f hnan hinf)
  | true =>
    obtain ⟨hnanOne, hinfOne⟩ := not_nan_inf_of_finite f _ (isFinite_fltOne f)
    have hmag : fltMag f x = infMag f := of_decide_eq_true hinf
    have hzero : isZero f x = false := by
      have := infMag_pos f
      simp only [isZero, decide_eq_false_iff_not]
      omega
    have hinfinite : fmul f q x (fltOne f) = packFlt f (fltNeg f x) (infMag f) := by
      simp [fmul, hnan, hnanOne, hinf, hinfOne, hzero, isZero_fltOne, fltNeg_fltOne]
    rw [hinfinite, ← hmag, packFlt_eta f x hfit]

end One

/-- Equal values read mean equal bytes. -/
theorem memGet_eq_of_readFlt_eq {f : Fmt} {m m' : Memory} {a j : Nat} (h : readFlt f m' a = readFlt f m a)
    (hj : j < fltBytes f) : memGet m' (a + j) = memGet m (a + j) := by
  have hnat (m : Memory) : (readFlt f m a).toNat = readBytes m a (fltBytes f) :=
    (readBytes_data (by cases f <;> decide)).1
  rw [← readBytes_byte _ m' a j hj, ← readBytes_byte _ m a j hj, ← hnat m', ← hnat m, h]

theorem fltBytes_pos (f : Fmt) : 0 < fltBytes f := by cases f <;> decide

/-- Memories that agree outside a buffer and on its elements agree. -/
theorem memGet_eq_of_elements {f : Fmt} {m m' : Memory} {base n : Nat}
    (hout : ∀ a, a < base ∨ elemAddr f base n ≤ a → memGet m' a = memGet m a)
    (hin : ∀ j, j < n → readFlt f m' (elemAddr f base j) = readFlt f m (elemAddr f base j)) (a : Nat) :
    memGet m' a = memGet m a := by
  by_cases h : a < base ∨ elemAddr f base n ≤ a
  · exact hout a h
  · simp only [not_or, not_lt, not_le] at h
    obtain ⟨hlo, hhi⟩ := h
    obtain ⟨d, rfl⟩ := Nat.exists_eq_add_of_le hlo
    have hj : d / fltBytes f < n := Nat.div_lt_of_lt_mul (by
      rw [elemAddr, Nat.mul_comm] at hhi; exact Nat.lt_of_add_lt_add_left hhi)
    have haddr : base + d = elemAddr f base (d / fltBytes f) + d % fltBytes f := by
      rw [elemAddr, Nat.add_assoc, Nat.div_add_mod']
    rw [haddr]
    exact memGet_eq_of_readFlt_eq (hin _ hj) (Nat.mod_lt _ (fltBytes_pos f))

/-- Settles O41: each element is multiplied by ONE, and its value decides its bytes. -/
theorem rectangularWindowIsIdentity : Obligations.RectangularWindowIsIdentity := by
  intro s rest hwf hready hn hcoef hnan
  obtain ⟨m, hexec, hread, hout⟩ := window_completes hwf hready hn
  rw [win_len_of_ready hready] at hread hout
  refine ⟨_, hexec, fun a => ?_⟩
  rw [State.setBank_mem, State.withMem_mem]
  refine memGet_eq_of_elements hout (fun j hj => (hread j hj).trans ?_) a
  have hone : s.win.coef.getD j fltZero = fltOne s.cfg.fmt := by
    rw [hcoef, List.getD_eq_getElem _ _ (by rwa [List.length_replicate]), List.getElem_replicate]
  rw [hone, fmul_fltOne _ _ (readFlt_lt _ _ _) (hnan j hj)]

/-! ### GET_FACTORS -/

/-- The write loop without bus error, from entry k on: the values in memory, every other byte unchanged. -/
theorem storeLoop_atElement (f : Fmt) (u : UnitId) (base : Nat) (p : Pend) (vs : List Flt) (k : Nat) (b : Bank)
    {m : Memory} (hwf : Memory.wf m = true) (hfits : ∀ v ∈ vs, Fits f v) :
    ∃ m', storeLoop f u base none vs k (b.atElement p k) m = (b.atElement p (k + vs.length), m') ∧
      readVector f m' (elemAddr f base k) vs.length = vs ∧
      ∀ a, a < elemAddr f base k ∨ elemAddr f base (k + vs.length) ≤ a → memGet m' a = memGet m a := by
  induction vs generalizing k m with
  | nil => exact ⟨m, rfl, rfl, fun _ _ => rfl⟩
  | cons v vs ih =>
    have hnext := elemAddr_succ f base k
    have hend := elemAddr_mono f base (show k + 1 ≤ k + (vs.length + 1) by omega)
    obtain ⟨m', hloop, hread, hout⟩ := ih (k + 1) (writeFlt_wf f m (elemAddr f base k) v hwf)
      fun x hx => hfits x (List.mem_cons_of_mem v hx)
    rw [Nat.add_right_comm k 1 vs.length, Nat.add_assoc k vs.length 1] at hloop hout
    refine ⟨m', hloop, ?_, fun a ha => ?_⟩
    · rw [List.length_cons, readVector_succ, ← hnext, hread, readFlt_congr fun a _ ha => hout a (.inl (by omega)),
        readFlt_writeFlt_same _ _ _ _ hwf (hfits v List.mem_cons_self)]
    · rw [List.length_cons] at ha
      rw [hout a (by omega), memGet_writeFlt_outside _ _ _ _ _ (by omega)]

/-- GET_FACTORS up to entry k. -/
theorem storeLoop_accept (f : Fmt) (u : UnitId) (base : Nat) (p : Pend) (vs : List Flt) (b : Bank) {m : Memory}
    (hwf : Memory.wf m = true) (hfits : ∀ v ∈ vs, Fits f v) :
    ∃ m', storeLoop f u base none vs 0 (b.accept p) m = (b.atElement p vs.length, m') ∧
      readVector f m' base vs.length = vs ∧
      ∀ a, a < base ∨ elemAddr f base vs.length ≤ a → memGet m' a = memGet m a := by
  obtain ⟨m', hloop, hread, hout⟩ := storeLoop_atElement f u base p vs 0 b hwf hfits
  rw [Nat.zero_add] at hloop hout
  rw [elemAddr_zero] at hread hout
  exact ⟨m', hloop, hread, hout⟩

/-- The coefficients of a bank of the right size. -/
theorem coefVector_eq {b : Bank} {n : Nat} (h : b.coef.length = n) : coefVector b n = b.coef := by
  subst h
  refine List.ext_getElem (by rw [coefVector_length]) fun i h1 h2 => ?_
  simp only [coefVector, List.getElem_map, List.getElem_range]
  exact List.getD_eq_getElem _ _ h2

/-- The engine of GET_FACTORS. -/
theorem engineOf_getFactors {i : Instr} (hi : i = .firGetFactors ∨ i = .iirGetFactors ∨ i = .winGetFactors) (c : Params)
    (p : Pend) (fail : Option Nat) (b : Bank) (m : Memory) :
    engineOf i c p fail b m = getFactors c.fmt i.unit (c.nc i.unit) p fail b m := by
  rcases hi with rfl | rfl | rfl <;> rfl

/-- Settles O28: the write loop over all entries, or up to the failing one. -/
theorem getFactorsStoresTheVector : Obligations.GetFactorsStoresTheVector := by
  intro i hi s fail rest hinv hready hn b n f base
  have hb := hinv.banks i.unit
  have hvector : coefVector (b.accept (s.latched i)) n = b.coef := coefVector_eq hb.coefLen
  have hengine := engineOf_getFactors hi s.cfg (s.latched i) fail (b.accept (s.latched i)) s.mem
  unfold getFactors at hengine
  rw [hvector] at hengine
  refine ⟨fun hlate => ?_, fun k hk hlt => ?_⟩
  · obtain ⟨m, hloop, hread, hout⟩ := storeLoop_accept f i.unit base (s.latched i) b.coef b hinv.memWf hb.coefFit
    rw [storeLoop_of_fail_ge _ _ (by rw [Nat.zero_add, hb.coefLen]; exact hlate)] at hengine
    have hlen : b.coef.length = n := hb.coefLen
    rw [hlen] at hloop hread hout
    exact ⟨m, exec_of_engine hready hn (hengine.trans hloop), hread, hout⟩
  · subst hk
    have hlen : (b.coef.take k).length = k := by rw [List.length_take, hb.coefLen]; exact Nat.min_eq_left hlt.le
    obtain ⟨m, hloop, hread, hout⟩ := storeLoop_accept f i.unit base (s.latched i) (b.coef.take k) b hinv.memWf
      fun x hx => hb.coefFit x (List.mem_of_mem_take hx)
    rw [hlen] at hloop hread hout
    have hfails := storeLoop_fails (f := f) (u := i.unit) (base := base) b.coef k (by rw [hb.coefLen]; exact hlt) 0
      (b.accept (s.latched i)) s.mem
    simp only [Nat.zero_add, hloop] at hfails
    have hnext := elemAddr_succ f base k
    have hbase : base ≤ elemAddr f base k := Nat.le_add_right _ _
    refine ⟨_, (exec_of_engine hready hn (hengine.trans hfails)).trans (congrArg (fun b' =>
      Host.Outcome.next (State.setBank _ i.unit b')) (atElement_busError_complete (b := b.useDraws 1) (r := b.useDraws 1) rfl
        (s.latched i) k _)), ?_, fun a ha => ?_⟩
    · refine (readVector_congr _ _ _ _ _ fun a _ ha => ?_).trans hread
      exact memGet_writeFlt_outside _ _ _ _ _ (.inl ha)
    · have hoff : a < base ∨ elemAddr f base k + fltBytes f ≤ a := hnext ▸ ha
      rw [failedStore, memGet_writeFlt_outside _ _ _ _ _ (hoff.imp hbase.trans_lt' id)]
      exact hout a (hoff.imp id (Nat.le_add_right _ _).trans)

end Sys2Proof.Machine

/-! PROOFS. The whole next state of the commands whose engine is one update of its bank: PROCESS1, RESET, SET_FACTORS,
SET_COEFFS, the designs and the window setups (40_common.md R260; 41_fir.md R300, R311, R320; 42_fir_design.md R351 to R380;
43_iir.md R400, R411, R420, R430; 44_window.md R460 to R463, R472). -/

namespace Sys2Proof.Machine

/-- Settles O20: the engine of PROCESS1 is one sample step. -/
theorem firProcess1FiltersDin : Obligations.FirProcess1FiltersDin := by
  intro s fail rest hready hn b n
  exact exec_of_engine (i := .firProcess1) hready hn rfl

/-- Settles O34: the engine of PROCESS1 is one sample step. -/
theorem iirProcess1StepsTheDifferenceEquation : Obligations.IirProcess1StepsTheDifferenceEquation := by
  intro s fail rest hready hn b f nb na q xin yout ff fb y
  exact exec_of_engine (i := .iirProcess1) hready hn rfl

/-- Settles O26: the engine of RESET is one update of the bank. -/
theorem resetCommandsDiffer : Obligations.ResetCommandsDiffer :=
  ⟨fun _ _ _ hready hn => exec_of_engine (i := .firReset) hready hn rfl,
    fun _ _ _ hready hn => exec_of_engine (i := .iirReset) hready hn rfl⟩

/-! ### Coefficient load -/

section SetFactors
variable {f : Fmt} {n : Nat} {p : Pend} {fail : Option Nat} (b : Bank) (m : Memory)

theorem setFactors_completes (h : ∀ k, fail = some k → n ≤ k) :
    setFactors f n p fail b m = ({ b with coef := readVector f m p.addr.toNat n }.setProg n, m) := by
  unfold setFactors
  split
  · next k => exact if_neg (h k rfl).not_gt
  · rfl

theorem setFactors_fails {k : Nat} (h : k < n) :
    setFactors f n p (some k) b m = ((b.setProg k).busError (elemAddr f p.addr.toNat k), m) := if_pos h

end SetFactors

theorem engineOf_setFactors {i : Instr} (hi : i = .firSetFactors ∨ i = .iirSetFactors ∨ i = .winSetFactors) (c : Params)
    (p : Pend) (fail : Option Nat) (b : Bank) (m : Memory) :
    engineOf i c p fail b m = setFactors c.fmt (c.nc i.unit) p fail b m := by
  rcases hi with rfl | rfl | rfl <;> rfl

/-- Settles O27: SET_FACTORS with and without a failing read. -/
theorem setFactorsLoadsAllOrNothing : Obligations.SetFactorsLoadsAllOrNothing := by
  intro i hi s fail rest hready hn b n
  have hengine := engineOf_setFactors hi s.cfg (s.latched i) fail (b.accept (s.latched i)) s.mem
  refine ⟨fun hlate => ?_, fun k hk hlt => ?_⟩
  · exact exec_of_engine hready hn (hengine.trans (setFactors_completes _ _ hlate))
  · subst hk
    refine (exec_of_engine hready hn (hengine.trans (setFactors_fails _ _ hlt))).trans ?_
    rw [busError_eq]
    rfl

/-- Settles O36: SET_COEFFS with and without a failing read. -/
theorem setCoeffsLoadsBothOrNothing : Obligations.SetCoeffsLoadsBothOrNothing := by
  intro s fail rest hready hn b f nb na
  refine ⟨fun hlate => ?_, fun k hk hlt => ?_⟩
  · refine exec_of_engine (i := .iirSetCoeffs)
      (b' := loadCoeffs s.cfg (s.latched .iirSetCoeffs) (b.accept (s.latched .iirSetCoeffs)) s.mem) hready hn ?_
    simp only [engineOf, engineIirSetCoeffs]
    split
    · next k => exact if_neg (hlate k rfl).not_gt
    · rfl
  · subst hk
    refine (exec_of_engine (i := .iirSetCoeffs) hready hn (if_pos hlt)).trans ?_
    rw [busError_eq]
    rfl

/-! ### The designs -/

theorem getD_map_range {n k : Nat} (g : Nat → Flt) (h : k < n) : ((List.range n).map g).getD k fltZero = g k := by
  rw [List.getD_eq_getElem _ _ (by simpa using h), List.getElem_map, List.getElem_range]

/-- Settles O29: the taps by position; the engines of the designs are one update of the coefficients. -/
theorem designCommandsWriteOnlyCoefficients : Obligations.DesignCommandsWriteOnlyCoefficients := by
  refine ⟨fun f q size x => ⟨by simp [sincTaps], fun n hn => getD_map_range _ hn⟩,
    fun f q h => ⟨by simp [normalizeTaps], fun n hn => getD_map_range _ hn⟩, ?_⟩
  intro s fail rest hn b f n q
  exact ⟨fun hready => exec_of_engine (i := .firDesignLowpass) hready hn rfl,
    fun hready => exec_of_engine (i := .firDesignHighpass) hready hn rfl,
    fun hready => exec_of_engine (i := .firDesignBandpass) hready hn rfl⟩

/-! ### The window setups and the window's length -/

theorem setupTable_eq (t : Table) (c : Params) (b : Bank) :
    setupTable t c b = { b with coef := if c.winSize ≤ 1 then b.coef else romTable t c.fmt c.winSize } := by
  unfold setupTable
  split_ifs <;> rfl

/-- Settles O42: the engines of the setups are one update of the coefficients. -/
theorem windowSetupsLoadTheirTables : Obligations.WindowSetupsLoadTheirTables := by
  intro s fail rest hn f n loaded table
  refine ⟨fun hready => exec_of_engine (i := .winSetupRect) hready hn rfl,
    fun hready => (exec_of_engine (i := .winSetupHamming) hready hn rfl).trans ?_,
    fun hready => (exec_of_engine (i := .winSetupHann) hready hn rfl).trans ?_,
    fun hready => (exec_of_engine (i := .winSetupBlackman) hready hn rfl).trans ?_⟩
  all_goals rw [setupTable_eq]; rfl

/-- Settles O45: the buffer check fails with one of its two length errors. -/
theorem windowLengthIsEnforced : Obligations.WindowLengthIsEnforced := by
  intro s hidle haddr hlen
  refine validationFailureChangesOnlyStatus .winProcess s _ hidle (by simp [Instr.wf, Instr.isDesign]) ?_
  change checkBuffer s.cfg.fmt s.win.addr.toNat s.win.len.toNat (some s.cfg.winSize) = _
  have hnull : s.win.addr.toNat ≠ 0 := BitVec.toNat_ne_iff_ne.mpr haddr
  split_ifs with hzero
  · exact checkBuffer_zeroLen hnull (congrArg BitVec.toNat hzero)
  · exact checkBuffer_lenMismatch hnull (BitVec.toNat_ne_iff_ne.mpr hzero) ⟨_, rfl, hlen⟩

end Sys2Proof.Machine

/-! PROOFS. Rounding is to nearest even: the exact quotient lies between two neighbouring magnitudes, and the rounding
chooses one of them by the remainder (00_scope.md R18). -/

namespace Sys2Proof.Machine

section Rounding
variable (f : Fmt)

/-- The floor of the kept quotient is a significand in normal form. -/
theorem div_dropBits (num den : Nat) :
    num / (den * 2 ^ dropBits f num den) < 2 ^ (fracBits f + 1) ∧
      (dropBits f num den = 0 ∨ 2 ^ fracBits f ≤ num / (den * 2 ^ dropBits f num den)) := by
  have hpow (d : Nat) : 0 < 2 ^ d := Nat.two_pow_pos d
  have hlog : num / den < 2 ^ (Nat.log2 (num / den) + 1) := Nat.lt_log2_self
  rw [← Nat.div_div_eq_div_mul]
  refine ⟨?_, ?_⟩
  · rw [Nat.div_lt_iff_lt_mul (hpow _), ← pow_add]
    exact hlog.trans_le (Nat.pow_le_pow_right Nat.two_pos (by unfold dropBits; omega))
  · rcases Nat.eq_zero_or_pos (dropBits f num den) with hd | hd
    · exact .inl hd
    · have hsum : fracBits f + dropBits f num den = Nat.log2 (num / den) := by unfold dropBits at hd ⊢; omega
      have hk : num / den ≠ 0 := fun h => by simp [dropBits, h] at hd
      rw [Nat.le_div_iff_mul_le (hpow _), ← pow_add, hsum]
      exact .inr (Nat.log2_self_le hk)

/-- A significand one above a significand in normal form, across a carry into the exponent too. -/
theorem magUnits_significand_succ {d t : Nat} (ht : t < 2 ^ (fracBits f + 1)) (hd : d = 0 ∨ 2 ^ fracBits f ≤ t) :
    magUnits f (d * 2 ^ fracBits f + (t + 1)) = (t + 1) * 2 ^ d := by
  rcases Nat.lt_or_eq_of_le (show t + 1 ≤ 2 ^ (fracBits f + 1) from ht) with hlt | hcarry
  · exact magUnits_significand f hlt (hd.imp_right Nat.le_succ_of_le)
  · have hsplit : d * 2 ^ fracBits f + (t + 1) = (d + 1) * 2 ^ fracBits f + 2 ^ fracBits f := by
      rw [hcarry]; ring
    rw [hsplit, magUnits_two_pow, hcarry]
    ring

/-- The magnitude encoding chosen between `lo` and the next one for num / den quanta: the nearer, the even one of both in
a tie. -/
def nearerOf (num den lo : Nat) : Nat :=
  let middle := (magUnits f lo + magUnits f (lo + 1)) * den
  if 2 * num < middle then lo else if middle < 2 * num then lo + 1 else lo + lo % 2

/-- The exact quotient lies between two neighbours, one of which the rounding delivers unless it overflows. -/
theorem exists_roundMag_eq_nearerOf (num : Nat) {den : Nat} (hden : 0 < den) :
    ∃ lo, magUnits f lo * den ≤ num ∧ num < magUnits f (lo + 1) * den ∧
      roundMag f num den = min (infMag f) (nearerOf f num den lo) := by
  obtain ⟨ht, hd⟩ := div_dropBits f num den
  rw [roundMag]
  generalize dropBits f num den = d at ht hd ⊢
  have hD : 0 < den * 2 ^ d := Nat.mul_pos hden (Nat.two_pow_pos d)
  have hnum := Nat.div_add_mod' num (den * 2 ^ d)
  have hrem := Nat.mod_lt num hD
  have hlo := magUnits_significand f ht hd
  have hhi := magUnits_significand_succ f ht hd
  rw [roundEven]
  generalize num / (den * 2 ^ d) = t, num % (den * 2 ^ d) = rem at ht hd hnum hrem hlo hhi ⊢
  rw [← Nat.add_assoc] at hhi
  have hloD : magUnits f (d * 2 ^ fracBits f + t) * den = t * (den * 2 ^ d) := by rw [hlo]; ring
  have hhiD : magUnits f (d * 2 ^ fracBits f + t + 1) * den = t * (den * 2 ^ d) + den * 2 ^ d := by rw [hhi]; ring
  have heven : d * 2 ^ fracBits f % 2 = 0 := by
    have htwo : 2 ∣ 2 ^ fracBits f := dvd_pow_self 2 (by cases f <;> decide)
    exact Nat.mod_eq_zero_of_dvd (htwo.mul_left d)
  refine ⟨d * 2 ^ fracBits f + t, by omega, by omega, ?_⟩
  have hparity : (d * 2 ^ fracBits f + t) % 2 = t % 2 := by omega
  rw [nearerOf, Nat.add_mul, hloD, hhiD, hparity]
  have hdown : 2 * rem < den * 2 ^ d ↔ 2 * num < t * (den * 2 ^ d) + (t * (den * 2 ^ d) + den * 2 ^ d) := by omega
  have hup : den * 2 ^ d < 2 * rem ↔ t * (den * 2 ^ d) + (t * (den * 2 ^ d) + den * 2 ^ d) < 2 * num := by omega
  simp only [← hdown, ← hup]
  split_ifs
  · rfl
  · rfl
  · rw [Nat.add_assoc]

section Bracket
variable {f} {num den lo : Nat}

/-- Of two neighbours the chosen one is at most as far away as the other, and even when both are equally far. -/
theorem nearerOf_cases :
    (nearerOf f num den lo = lo ∧ 2 * num ≤ (magUnits f lo + magUnits f (lo + 1)) * den ∧
        (2 * num = (magUnits f lo + magUnits f (lo + 1)) * den → lo % 2 = 0)) ∨
      (nearerOf f num den lo = lo + 1 ∧ (magUnits f lo + magUnits f (lo + 1)) * den ≤ 2 * num ∧
        (2 * num = (magUnits f lo + magUnits f (lo + 1)) * den → (lo + 1) % 2 = 0)) := by
  unfold nearerOf
  dsimp only
  split_ifs
  · exact .inl ⟨rfl, by omega, by omega⟩
  · exact .inr ⟨rfl, by omega, by omega⟩
  · rcases Nat.mod_two_eq_zero_or_one lo with hmod | hmod
    · exact .inl ⟨by omega, by omega, by omega⟩
    · exact .inr ⟨by omega, by omega, by omega⟩

/-- A larger magnitude stands for at least one more multiple of den. -/
theorem magUnits_mul_lt (hden : 0 < den) {m n : Nat} (h : m < n) : magUnits f m * den < magUnits f n * den :=
  Nat.mul_lt_mul_of_pos_right (magUnits_strictMono f h) hden

theorem magUnits_mul_le {m n : Nat} (h : m ≤ n) : magUnits f m * den ≤ magUnits f n * den :=
  Nat.mul_le_mul_right den ((magUnits_strictMono f).monotone h)

/-- No magnitude is nearer than the chosen one, and one as near means that the chosen one is even. -/
theorem nearerOf_nearest (hden : 0 < den) (hlo : magUnits f lo * den ≤ num) (hhi : num < magUnits f (lo + 1) * den)
    (m : Nat) :
    let r := nearerOf f num den lo
    ((magUnits f r * den : Nat) - (num : Int)).natAbs ≤ ((magUnits f m * den : Nat) - (num : Int)).natAbs ∧
      (m ≠ r → ((magUnits f r * den : Nat) - (num : Int)).natAbs = ((magUnits f m * den : Nat) - (num : Int)).natAbs →
        r % 2 = 0) := by
  intro r
  have hmiddle : (magUnits f lo + magUnits f (lo + 1)) * den = magUnits f lo * den + magUnits f (lo + 1) * den := by ring
  have hcases := nearerOf_cases (f := f) (num := num) (den := den) (lo := lo)
  rw [hmiddle] at hcases
  rcases Nat.lt_or_ge lo m with hm | hm
  · have hfar := magUnits_mul_le (f := f) (den := den) (show lo + 1 ≤ m from hm)
    have hstrict : m = lo + 1 ∨ magUnits f (lo + 1) * den < magUnits f m * den :=
      (Nat.eq_or_lt_of_le hm).imp Eq.symm (magUnits_mul_lt hden)
    obtain ⟨hr, hnear, heven⟩ | ⟨hr, hnear, heven⟩ := hcases <;> simp only [r, hr] <;> omega
  · have hfar := magUnits_mul_le (f := f) (den := den) hm
    have hstrict : m = lo ∨ magUnits f m * den < magUnits f lo * den :=
      (Nat.eq_or_lt_of_le hm).imp_right (magUnits_mul_lt hden)
    obtain ⟨hr, hnear, heven⟩ | ⟨hr, hnear, heven⟩ := hcases <;> simp only [r, hr] <;> omega

/-- The chosen magnitude reaches an even bound exactly from half way below the bound on. -/
theorem le_nearerOf_iff (hlo : magUnits f lo * den ≤ num) (hhi : num < magUnits f (lo + 1) * den)
    {bound : Nat} (hpos : 0 < bound) (heven : bound % 2 = 0) :
    bound ≤ nearerOf f num den lo ↔ (magUnits f (bound - 1) + magUnits f bound) * den ≤ 2 * num := by
  have hcases := nearerOf_cases (f := f) (num := num) (den := den) (lo := lo)
  rcases Nat.lt_trichotomy bound (lo + 1) with hb | rfl | hb
  · have h1 := magUnits_mul_le (f := f) (den := den) (show bound ≤ lo by omega)
    have h2 := magUnits_mul_le (f := f) (den := den) (show bound - 1 ≤ lo by omega)
    rw [Nat.add_mul] at hcases ⊢
    omega
  · rw [Nat.add_sub_cancel]
    omega
  · have h1 := magUnits_mul_le (f := f) (den := den) (show lo + 1 ≤ bound - 1 by omega)
    have h2 := magUnits_mul_le (f := f) (den := den) (show lo + 1 ≤ bound by omega)
    rw [Nat.add_mul (magUnits f (bound - 1))]
    omega

end Bracket

theorem infMag_even : infMag f % 2 = 0 := by cases f <;> decide

end Rounding

/-- Settles O15: the rounding chooses between the two neighbours of the exact quotient, and the bound of infinity is even. -/
theorem roundingIsNearestEven : Obligations.RoundingIsNearestEven := by
  intro f num den hden
  obtain ⟨lo, hlo, hhi, hround⟩ := exists_roundMag_eq_nearerOf f num hden
  refine ⟨fun m _ hfin => ?_, ?_⟩
  · rw [hround] at hfin
    have hr : roundMag f num den = nearerOf f num den lo := hround.trans (by omega)
    rw [hr]
    exact nearerOf_nearest hden hlo hhi m
  · rw [hround, ← le_nearerOf_iff hlo hhi (infMag_pos f) (infMag_even f)]
    exact min_eq_left_iff

end Sys2Proof.Machine

/-! PROOFS. What the arithmetic delivers: quiet NaNs of the free value, exact sums, and accumulations that end in +0.0
(00_scope.md R18 to R20, R23; 41_fir.md R304; 42_fir_design.md R370, R391; 43_iir.md R404, R431, R432). -/

namespace Sys2Proof.Machine

section Arithmetic
variable (f : Fmt)

/-! ### NaN results -/

/-- An operation delivers the NaN of its free value, or a value with a magnitude up to that of infinity. -/
def Delivered (q : BitVec 64) (r : Flt) : Prop := r = quietNaN f q ∨ ∃ neg m, m ≤ infMag f ∧ r = packFlt f neg m

theorem delivered_roundSum (q : BitVec 64) (bothNeg : Bool) (x : Int) : Delivered f q (roundSum f bothNeg x) := by
  unfold roundSum
  split_ifs
  · exact .inr ⟨_, _, Nat.zero_le _, rfl⟩
  · exact .inr ⟨_, _, roundMag_le f _ _, rfl⟩

theorem delivered_fadd (q : BitVec 64) (a b : Flt) : Delivered f q (fadd f q a b) := by
  unfold fadd
  split_ifs
  · exact .inl rfl
  · exact .inl rfl
  · exact .inr ⟨_, _, le_rfl, rfl⟩
  · exact .inr ⟨_, _, le_rfl, rfl⟩
  · exact delivered_roundSum f q _ _

theorem delivered_fmul (q : BitVec 64) (a b : Flt) : Delivered f q (fmul f q a b) := by
  unfold fmul
  split_ifs
  · exact .inl rfl
  · exact .inl rfl
  · exact .inr ⟨_, _, le_rfl, rfl⟩
  · exact .inr ⟨_, _, roundMag_le f _ _, rfl⟩

theorem delivered_fdiv (q : BitVec 64) (a b : Flt) : Delivered f q (fdiv f q a b) := by
  unfold fdiv
  split_ifs
  · exact .inl rfl
  · exact .inl rfl
  · exact .inr ⟨_, _, le_rfl, rfl⟩
  · exact .inr ⟨_, _, Nat.zero_le _, rfl⟩
  · exact .inl rfl
  · exact .inr ⟨_, _, le_rfl, rfl⟩
  · exact .inr ⟨_, _, roundMag_le f _ _, rfl⟩

variable {f} in
theorem Delivered.eq_quietNaN {q : BitVec 64} {r : Flt} (h : Delivered f q r) (hnan : isNaN f r = true) :
    r = quietNaN f q := by
  obtain h | ⟨neg, m, hm, rfl⟩ := h
  · exact h
  · rw [isNaN_packFlt f neg m hm] at hnan
    contradiction

/-- A NaN operand decides the result of every operation. -/
theorem op_of_isNaN (q : BitVec 64) {a b : Flt} (h : (isNaN f a || isNaN f b) = true) :
    fadd f q a b = quietNaN f q ∧ fsub f q a b = quietNaN f q ∧ fmul f q a b = quietNaN f q ∧
      fdiv f q a b = quietNaN f q :=
  ⟨if_pos h, if_pos (by rwa [isNaN_fneg]), if_pos h, if_pos h⟩

/-- The encoding of a NaN: sign, infinity's exponent, quiet bit and payload. -/
theorem quietNaN_toNat (q : BitVec 64) :
    (quietNaN f q).toNat = (if q.getLsbD 63 then signWeight f else 0) +
      (infMag f + 2 ^ (fracBits f - 1) + q.toNat % 2 ^ (fracBits f - 1)) :=
  packFlt_toNat f _ _ (quiet_lt f q)

theorem quietNaN_quietBit (q : BitVec 64) : (quietNaN f q).toNat / 2 ^ (fracBits f - 1) % 2 = 1 := by
  have hpayload := Nat.mod_lt q.toNat (Nat.two_pow_pos (fracBits f - 1))
  rw [quietNaN_toNat]
  generalize q.toNat % 2 ^ (fracBits f - 1) = payload at hpayload ⊢
  cases f <;> simp only [infMag, fracBits, expBits, signWeight, fltWidth] at hpayload ⊢ <;> split_ifs <;> omega

/-- The free value with the sign and the low bits of an encoding. -/
def drawOf (y : Flt) : BitVec 64 :=
  BitVec.ofNat 64 ((if fltNeg f y then 2 ^ 63 else 0) + y.toNat % 2 ^ (fracBits f - 1))

theorem drawOf_toNat (y : Flt) :
    (drawOf f y).toNat = (if fltNeg f y then 2 ^ 63 else 0) + y.toNat % 2 ^ (fracBits f - 1) := by
  have hpayload := Nat.mod_lt y.toNat (Nat.two_pow_pos (fracBits f - 1))
  have hsmall : 2 ^ (fracBits f - 1) ≤ 2 ^ 51 := by cases f <;> decide
  rw [drawOf, BitVec.toNat_ofNat, Nat.mod_eq_of_lt]
  split_ifs <;> omega

theorem getLsbD_drawOf (y : Flt) : (drawOf f y).getLsbD 63 = fltNeg f y := by
  have hpayload := Nat.mod_lt y.toNat (Nat.two_pow_pos (fracBits f - 1))
  have hsmall : 2 ^ (fracBits f - 1) ≤ 2 ^ 51 := by cases f <;> decide
  rw [BitVec.getLsbD, drawOf_toNat, Nat.testBit_eq_decide_div_mod_eq]
  cases fltNeg f y <;> simp only [if_true, Bool.false_eq_true, if_false, decide_eq_true_eq, decide_eq_false_iff_not] <;>
    omega

theorem drawOf_mod (y : Flt) :
    (drawOf f y).toNat % 2 ^ (fracBits f - 1) = y.toNat % 2 ^ (fracBits f - 1) := by
  have hdvd : 2 ^ (fracBits f - 1) ∣ (if fltNeg f y then 2 ^ 63 else 0) := by
    split_ifs
    · exact pow_dvd_pow 2 (by cases f <;> decide)
    · exact dvd_zero _
  rw [drawOf_toNat, Nat.add_mod, Nat.mod_eq_zero_of_dvd hdvd, Nat.zero_add, Nat.mod_mod, Nat.mod_mod]

/-- A quiet NaN's magnitude: infinity's exponent, the quiet bit and the payload. -/
theorem fltMag_of_quiet {y : Flt} (hnan : isNaN f y = true) (hquiet : y.toNat / 2 ^ (fracBits f - 1) % 2 = 1) :
    fltMag f y = infMag f + 2 ^ (fracBits f - 1) + y.toNat % 2 ^ (fracBits f - 1) := by
  simp only [isNaN, decide_eq_true_eq] at hnan
  unfold fltMag at hnan ⊢
  cases f <;> simp only [infMag, fracBits, expBits, signWeight, fltWidth] at hnan hquiet ⊢ <;> omega

/-- Every quiet NaN is the one of the free value made of its sign and payload. -/
theorem quietNaN_drawOf {y : Flt} (hfit : Fits f y) (hnan : isNaN f y = true)
    (hquiet : y.toNat / 2 ^ (fracBits f - 1) % 2 = 1) : quietNaN f (drawOf f y) = y := by
  rw [quietNaN, getLsbD_drawOf, drawOf_mod, ← fltMag_of_quiet f hnan hquiet, packFlt_eta f y hfit]

/-! ### Zeros and exact sums -/

theorem packFlt_true_zero_ne : fltZero ≠ packFlt f true 0 := by cases f <;> decide

/-- A sum of quanta other than 0 does not round to a zero. -/
theorem roundMag_one_pos {n : Nat} (h : 0 < n) : 0 < roundMag f n 1 := by
  have hexact := roundMag_magUnits f Nat.one_pos (show 1 ≤ infMag f from infMag_pos f)
  rw [roundMag]
  refine lt_min (infMag_pos f) ?_
  rcases Nat.eq_zero_or_pos (dropBits f n 1) with hd | hd
  · have hround := roundEven_mul_left n Nat.one_pos
    rw [Nat.mul_one] at hround
    rwa [hd, Nat.zero_mul, pow_zero, Nat.mul_one, Nat.zero_add, hround]
  · have := Nat.mul_pos hd (Nat.two_pow_pos (fracBits f))
    omega

theorem isZero_roundSum {bothNeg : Bool} {x : Int} (h : x ≠ 0) : isZero f (roundSum f bothNeg x) = false := by
  have hpos := roundMag_one_pos f (Int.natAbs_pos.mpr h)
  rw [roundSum, if_neg h, isZero, fltMag_packFlt f _ _ (roundMag_lt f _ _)]
  exact decide_eq_false hpos.ne'

theorem isZero_of_signedUnits_eq_zero {x : Flt} (h : signedUnits f x = 0) : isZero f x = true := by
  have hkey : signedUnits f x = signedUnits f fltZero := by rw [h, signedUnits_fltZero]
  have horder := le_antisymm ((signedUnits_le_iff f _ _).mp hkey.le) ((signedUnits_le_iff f _ _).mp hkey.ge)
  have hzero : orderKey f fltZero = 0 := by cases f <;> decide
  rw [hzero, orderKey] at horder
  rw [isZero, decide_eq_true_eq]
  split at horder <;> omega

/-- A zero is +0.0 or -0.0. -/
theorem eq_packFlt_of_isZero {x : Flt} (hfit : Fits f x) (h : isZero f x = true) : x = packFlt f (fltNeg f x) 0 := by
  have hmag : fltMag f x = 0 := of_decide_eq_true h
  rw [← hmag, packFlt_eta f x hfit]

/-- A sum that a finite value other than a zero represents exactly is that value. -/
theorem fadd_exact (q : BitVec 64) {a b v : Flt} (ha : isFinite f a = true) (hb : isFinite f b = true) (hfit : Fits f v)
    (hfin : isFinite f v = true) (hv : isZero f v = false) (hsum : signedUnits f a + signedUnits f b = signedUnits f v) :
    fadd f q a b = v := by
  have hne : signedUnits f v ≠ 0 := fun h => by
    rw [isZero_of_signedUnits_eq_zero f h] at hv
    contradiction
  have hmag : fltMag f v ≤ infMag f := (of_decide_eq_true hfin).le
  have hround : roundMag f (fltUnits f v) 1 = fltMag f v := by
    rw [← Nat.mul_one (fltUnits f v)]
    exact roundMag_magUnits f Nat.one_pos hmag
  have hsign : decide (signedUnits f v < 0) = fltNeg f v := by
    cases hneg : fltNeg f v <;> simp only [signedUnits, hneg, if_true, Bool.false_eq_true, if_false] at hne ⊢
    · exact decide_eq_false (by omega)
    · exact decide_eq_true (by omega)
  have habs : (signedUnits f v).natAbs = fltUnits f v := by
    unfold signedUnits
    split_ifs <;> simp
  rw [fadd_of_isFinite f q ha hb, hsum, roundSum, if_neg hne, habs, hround, hsign, packFlt_eta f v hfit]

theorem fadd_fltZero_packFlt_zero (q : BitVec 64) (neg : Bool) : fadd f q fltZero (packFlt f neg 0) = fltZero := by
  have h := fadd_packFlt_zero f q false neg
  rwa [Bool.false_and] at h

/-- A finite value plus its negation is +0.0. -/
theorem fadd_fneg (q : BitVec 64) {v : Flt} (h : isFinite f v = true) : fadd f q v (fneg f v) = fltZero := fsub_self f q h

/-- A product with a zero of a finite value is a zero. -/
theorem fmul_of_isZero (q : BitVec 64) {a b : Flt} (ha : isFinite f a = true) (hb : isFinite f b = true)
    (h : isZero f a = true ∨ isZero f b = true) : fmul f q a b = packFlt f (fltNeg f a != fltNeg f b) 0 := by
  have hunits : fltUnits f a * fltUnits f b = 0 := by
    rcases h with h | h
    · rw [fltUnits, of_decide_eq_true h, magUnits_zero, Nat.zero_mul]
    · rw [fltUnits.eq_def f b, of_decide_eq_true h, magUnits_zero, Nat.mul_zero]
  have hround := roundMag_magUnits f (Nat.two_pow_pos (quantumExp f)) (Nat.zero_le (infMag f))
  rw [magUnits_zero, Nat.zero_mul] at hround
  rw [fmul_of_isFinite f q ha hb, hunits, hround]

/-! ### Accumulations -/

/-- A sum is -0.0 only if its first operand is. -/
theorem fadd_ne_negativeZero (q : BitVec 64) {a : Flt} (b : Flt) (hfit : Fits f a) (ha : a ≠ packFlt f true 0) :
    fadd f q a b ≠ packFlt f true 0 := by
  have hsw := signWeight_pos f
  intro h
  have hz := isZero_packFlt_zero f true
  rw [← h] at hz
  have hfinite := isFinite_of_isZero f hz
  have hnan := (not_nan_inf_of_finite f _ hfinite).1
  have hinf := (not_nan_inf_of_finite f _ hfinite).2
  have hinfPack (neg : Bool) : isInf f (packFlt f neg (infMag f)) = true := by
    rw [isInf, fltMag_packFlt f _ _ (infMag_lt f)]
    exact decide_eq_true rfl
  unfold fadd at h hz hnan hinf
  split_ifs at h hz hnan hinf
  · exact Bool.false_ne_true (hnan.symm.trans (isNaN_quietNaN f q))
  · exact Bool.false_ne_true (hnan.symm.trans (isNaN_quietNaN f q))
  · exact Bool.false_ne_true (hinf.symm.trans (hinfPack _))
  · exact Bool.false_ne_true (hinf.symm.trans (hinfPack _))
  · by_cases hsum : signedUnits f a + signedUnits f b = 0
    · rw [hsum, roundSum_zero] at h
      have hboth := congrArg (fltNeg f) h
      rw [fltNeg_packFlt f _ _ hsw, fltNeg_packFlt f _ _ hsw, Bool.and_eq_true] at hboth
      obtain ⟨hnegA, hnegB⟩ := hboth
      have hunits : signedUnits f a = 0 := by
        simp only [signedUnits, hnegA, hnegB, if_true] at hsum ⊢
        omega
      exact ha (by rw [eq_packFlt_of_isZero f hfit (isZero_of_signedUnits_eq_zero f hunits), hnegA])
    · rw [isZero_roundSum f hsum] at hz
      contradiction

/-- An accumulation from +0.0 never ends in -0.0. -/
theorem accumulate_ne_negativeZero (q : Nat → BitVec 64) (term : Nat → Flt) (n : Nat) :
    accumulate f q term n ≠ packFlt f true 0 := by
  induction n with
  | zero => exact packFlt_true_zero_ne f
  | succ n ih => exact fadd_ne_negativeZero f _ _ (accumulate_fits f q term n) ih

/-- Zeros apart from one finite term accumulate to that term, to +0.0 if it is a zero or not reached. -/
theorem accumulate_of_single {q : Nat → BitVec 64} {term : Nat → Flt} (k : Nat)
    (hzero : ∀ i, i ≠ k → Fits f (term i) ∧ isZero f (term i) = true) (hfit : Fits f (term k))
    (hfin : isFinite f (term k) = true) (n : Nat) :
    accumulate f q term n = if k < n ∧ isZero f (term k) = false then term k else fltZero := by
  induction n with
  | zero => rfl
  | succ n ih =>
    rw [accumulate, ih]
    rcases Nat.lt_trichotomy k n with hkn | rfl | hkn
    · obtain ⟨hfitN, hzeroN⟩ := hzero n hkn.ne'
      cases hk : isZero f (term k) with
      | false =>
        rw [if_pos ⟨hkn, rfl⟩, if_pos ⟨Nat.lt_succ_of_lt hkn, rfl⟩]
        exact fadd_exact f _ hfin (isFinite_of_isZero f hzeroN) hfit hfin hk
          (by rw [signedUnits_of_isZero f hzeroN, Int.add_zero])
      | true =>
        rw [if_neg (by simp), if_neg (by simp), eq_packFlt_of_isZero f hfitN hzeroN]
        exact fadd_fltZero_packFlt_zero f _ _
    · rw [if_neg (by simp)]
      cases hk : isZero f (term k) with
      | false =>
        rw [if_pos ⟨Nat.lt_succ_self k, rfl⟩]
        exact fadd_exact f _ (isFinite_fltZero f) hfin hfit hfin hk (by rw [signedUnits_fltZero, Int.zero_add])
      | true =>
        rw [if_neg (by simp), eq_packFlt_of_isZero f hfit hk]
        exact fadd_fltZero_packFlt_zero f _ _
    · obtain ⟨hfitN, hzeroN⟩ := hzero n hkn.ne
      rw [if_neg (by omega), if_neg (by omega), eq_packFlt_of_isZero f hfitN hzeroN]
      exact fadd_fltZero_packFlt_zero f _ _

/-- Zeros accumulate to +0.0. -/
theorem accumulate_of_isZero {q : Nat → BitVec 64} {term : Nat → Flt}
    (hzero : ∀ i, Fits f (term i) ∧ isZero f (term i) = true) (n : Nat) : accumulate f q term n = fltZero := by
  rw [accumulate_of_single f n (fun i _ => hzero i) (hzero n).1 (isFinite_of_isZero f (hzero n).2), if_neg (by simp)]

/-- A NaN first term makes the accumulation a NaN. -/
theorem isNaN_accumulate {q : Nat → BitVec 64} {term : Nat → Flt} (h : isNaN f (term 0) = true) (n : Nat) :
    isNaN f (accumulate f q term (n + 1)) = true := by
  have hadd (q : BitVec 64) {a b : Flt} (hnan : (isNaN f a || isNaN f b) = true) : isNaN f (fadd f q a b) = true := by
    rw [(op_of_isNaN f q hnan).1, isNaN_quietNaN]
  induction n with
  | zero => exact hadd _ (by rw [h, Bool.or_true])
  | succ n ih => exact hadd _ (by rw [ih, Bool.true_or])

end Arithmetic

/-- Settles O17: what each operation delivers, and the free value that gives a quiet NaN. -/
theorem naNResultsAreAnyQuietNaN : Obligations.NaNResultsAreAnyQuietNaN := by
  intro f
  refine ⟨fun q a b h => op_of_isNaN f q h, fun q a b r hnan hr => ?_,
    fun y hfit hnan hquiet => ⟨drawOf f y, quietNaN_drawOf f hfit hnan hquiet⟩⟩
  have hdelivered : Delivered f q r := by
    rcases hr with rfl | rfl | rfl | rfl
    exacts [delivered_fadd f q a b, delivered_fadd f q a (fneg f b), delivered_fmul f q a b, delivered_fdiv f q a b]
  rw [hdelivered.eq_quietNaN hnan]
  exact ⟨quietNaN_fits f q, quietNaN_quietBit f q⟩

/-- Settles O24: an output is an accumulation from +0.0. -/
theorem firNeverOutputsNegativeZero : Obligations.FirNeverOutputsNegativeZero :=
  fun c _ _ => accumulate_ne_negativeZero c.fmt _ _ _

/-- Settles O33: the taps by position, and a value plus its negation. -/
theorem highpassComplementsLowpass : Obligations.HighpassComplementsLowpass := by
  intro f q size x
  have hlen : (lowpass f q size x).length = size := lowpass_length f q size x
  have hmap (n : Nat) (hn : n < size) :
      ((lowpass f q size x).map (fneg f)).getD n fltZero = fneg f ((lowpass f q size x).getD n fltZero) := by
    rw [List.getD_eq_getElem _ _ (by simpa [hlen] using hn), List.getD_eq_getElem _ _ (by simpa [hlen] using hn),
      List.getElem_map]
  refine ⟨by simp [highpass, hlen], fun n hn hne => ?_, fun q' v hv => fadd_fneg f q' hv, fun hsize => ?_⟩
  · rw [← hmap n hn, highpass, List.getD_eq_getElem?_getD, List.getElem?_set_ne (Ne.symm hne), List.getD_eq_getElem?_getD]
  · have hcentre : centreTap size < size := by unfold centreTap; omega
    rw [← hmap _ hcentre, highpass, List.getD_eq_getElem _ _ (by simpa [hlen] using hcentre), List.getElem_set_self]

/-! ### The IIR with zero coefficients and with a NaN in its output history -/

theorem getD_of_forall_mem {P : Flt → Prop} {l : List Flt} (h : ∀ x ∈ l, P x) (h0 : P fltZero) (i : Nat) :
    P (l.getD i fltZero) := by
  by_cases hi : i < l.length
  · rw [List.getD_eq_getElem _ _ hi]
    exact h _ (List.getElem_mem hi)
  · rwa [List.getD_eq_default _ _ (not_lt.mp hi)]

/-- Coefficients +0.0 against a finite history sum up to +0.0. -/
theorem dotProduct_of_zero (f : Fmt) (q : Nat → BitVec 64) (n : Nat) {coef hist : List Flt} (hc : ∀ y ∈ coef, y = fltZero)
    (hh : ∀ y ∈ hist, isFinite f y = true) : dotProduct f q n coef hist = fltZero := by
  refine accumulate_of_isZero f (fun i => ?_) n
  have hzero : coef.getD i fltZero = fltZero := getD_of_forall_mem (P := (· = fltZero)) hc rfl i
  have hfin := getD_of_forall_mem hh (isFinite_fltZero f) i
  rw [hzero, fmul_of_isZero f _ (isFinite_fltZero f) hfin (.inl (isZero_packFlt_zero f false))]
  exact ⟨packFlt_fits f _ _ (signWeight_pos f), isZero_packFlt_zero f _⟩

/-- Settles O38: both sums are +0.0, and so is their difference. -/
theorem zeroCoefficientsGiveZero : Obligations.ZeroCoefficientsGiveZero := by
  intro c b x hcoef hx hhist
  have hin : ∀ y ∈ shiftIn c.numB x (b.hist.take c.numB), isFinite c.fmt y = true := by
    intro y hy
    rcases List.mem_cons.mp (List.mem_of_mem_take hy) with rfl | hy
    · exact hx
    · exact hhist y (List.mem_of_mem_take hy)
  have hout : (stepIir c b x).2 = fltZero := by
    have hff := dotProduct_of_zero c.fmt (nanStream .iir b.draws) c.numB
      (coef := b.coef.take c.numB) (fun y hy => hcoef y (List.mem_of_mem_take hy)) hin
    have hfb := dotProduct_of_zero c.fmt (fun j => nanStream .iir b.draws (2 * c.numB + j)) c.numA
      (coef := b.coef.drop c.numB) (hist := b.hist.drop c.numB) (fun y hy => hcoef y (List.mem_of_mem_drop hy)) fun y hy => hhist y (List.mem_of_mem_drop hy)
    exact (congrArg₂ (fsub c.fmt _) hff hfb).trans (fsub_self c.fmt _ (isFinite_fltZero c.fmt))
  refine ⟨hout, rfl, fun y hy => ?_⟩
  rcases List.mem_append.mp hy with hy | hy
  · exact hin y hy
  · rcases List.mem_cons.mp (List.mem_of_mem_take hy) with hy | hy
    · exact (hy.trans hout) ▸ isFinite_fltZero c.fmt
    · exact hhist y (List.mem_of_mem_drop hy)

/-- A history of full length whose newest output is a NaN. -/
def NaNOutputHeld (c : Params) (b : Bank) : Prop :=
  b.hist.length = c.numB + c.numA ∧ isNaN c.fmt (b.hist.getD c.numB fltZero) = true

/-- With feedback, a step from a NaN output gives a NaN output, which is the newest of the history. -/
theorem stepIir_of_naNOutputHeld {c : Params} {b : Bank} (ha : 1 ≤ c.numA) (h : NaNOutputHeld c b)
    (x : Flt) : isNaN c.fmt (stepIir c b x).2 = true ∧ NaNOutputHeld c (stepIir c b x).1 := by
  obtain ⟨hlen, hnan⟩ := h
  obtain ⟨na, hna⟩ := Nat.exists_eq_succ_of_ne_zero (Nat.one_le_iff_ne_zero.mp ha)
  have hy : isNaN c.fmt (stepIir c b x).2 = true := by
    have hterm (q : BitVec 64) (coef : Flt) :
        isNaN c.fmt (fmul c.fmt q coef ((b.hist.drop c.numB).getD 0 fltZero)) = true := by
      have hfirst : (b.hist.drop c.numB).getD 0 fltZero = b.hist.getD c.numB fltZero := by
        simp [List.getD_eq_getElem?_getD, List.getElem?_drop]
      rw [hfirst, (op_of_isNaN c.fmt q (by rw [hnan, Bool.or_true])).2.2.1, isNaN_quietNaN]
    have hfb : isNaN c.fmt (dotProduct c.fmt (fun j => nanStream .iir b.draws (2 * c.numB + j)) c.numA
        (b.coef.drop c.numB) (b.hist.drop c.numB)) = true := by
      unfold dotProduct
      simp only [hna]
      exact isNaN_accumulate c.fmt (hterm _ _) na
    have hsub := (op_of_isNaN c.fmt (nanStream .iir b.draws (2 * c.numB + 2 * c.numA))
      (a := dotProduct c.fmt (nanStream .iir b.draws) c.numB (b.coef.take c.numB)
        (shiftIn c.numB x (b.hist.take c.numB))) (by rw [hfb, Bool.or_true])).2.1
    exact (congrArg (isNaN c.fmt) hsub).trans (isNaN_quietNaN _ _)
  have hin : (shiftIn c.numB x (b.hist.take c.numB)).length = c.numB := by simp [shiftIn, hlen]
  have hout : (shiftIn c.numA (stepIir c b x).2 (b.hist.drop c.numB)).length = c.numA := by simp [shiftIn, hlen]
  have hhist : (stepIir c b x).1.hist =
      shiftIn c.numB x (b.hist.take c.numB) ++ shiftIn c.numA (stepIir c b x).2 (b.hist.drop c.numB) := rfl
  refine ⟨hy, ?_, ?_⟩
  · rw [hhist, List.length_append, hin, hout]
  · have hnewest : (stepIir c b x).1.hist.getD c.numB fltZero = (stepIir c b x).2 := by
      rw [hhist, List.getD_append_right _ _ _ _ hin.le, hin, Nat.sub_self, shiftIn, hna]
      rfl
    rw [hnewest, hy]

/-- Settles O39: a NaN output is held by every step. -/
theorem naNOutputIsLatched : Obligations.NaNOutputIsLatched := by
  intro c b xs _ ha hlen hnan
  have hheld : NaNOutputHeld c b := ⟨hlen, hnan⟩
  clear hlen hnan
  induction xs generalizing b with
  | nil => exact fun y hy => absurd hy List.not_mem_nil
  | cons x xs ih =>
    obtain ⟨hy, hnext⟩ := stepIir_of_naNOutputHeld ha hheld x
    intro y hmem
    rcases List.mem_cons.mp hmem with rfl | hmem
    · exact hy
    · exact ih _ hnext y hmem

end Sys2Proof.Machine

/-! PROOFS. The FIR's circular history holds the last inputs, and the impulse response it gives (41_fir.md R302, R303,
R330). -/

namespace Sys2Proof.Machine

/-- The index of the history entry j places before `head` in a circular history of `size` entries. -/
def entryBefore (size head j : Nat) : Nat := (head + 2 * size - 1 - j) % size

section Circular
variable {size head j : Nat}

/-- After a step the entry 0 places before head is the one just written. -/
theorem entryBefore_zero (h : head < size) : entryBefore size ((head + 1) % size) 0 = head := by
  rw [entryBefore, Nat.sub_zero, Nat.add_sub_assoc (by omega), Nat.mod_add_mod,
    show head + 1 + (2 * size - 1) = head + size * 2 by omega, Nat.add_mul_mod_self_left, Nat.mod_eq_of_lt h]

/-- After a step every older entry is one place further from head. -/
theorem entryBefore_succ (hj : j + 1 < size) :
    entryBefore size ((head + 1) % size) (j + 1) = entryBefore size head j := by
  rw [entryBefore, Nat.add_sub_assoc (by omega), Nat.add_sub_assoc (by omega), Nat.mod_add_mod, entryBefore]
  congr 1
  omega

/-- The entry about to be written is none of those closer to head than the oldest. -/
theorem entryBefore_ne (h : head < size) (hj : j + 1 < size) : entryBefore size head j ≠ head := by
  intro heq
  have hmod : head + (2 * size - 1 - j) ≡ head + 0 [MOD size] := by
    rw [Nat.ModEq, Nat.add_zero, Nat.mod_eq_of_lt h, show head + (2 * size - 1 - j) = head + 2 * size - 1 - j by omega]
    exact heq
  have hdvd := Nat.modEq_zero_iff_dvd.mp (Nat.ModEq.add_left_cancel' head hmod)
  exact Nat.not_dvd_of_lt_of_lt_mul_succ (k := 1) (by omega) (by omega) hdvd

/-- The index `step_FIR` reads for coefficient i. -/
theorem entryBefore_eq_read (hj : j < size) :
    entryBefore size ((head + 1) % size) j = (head + size - j) % size := by
  rw [entryBefore, Nat.add_sub_assoc (by omega), Nat.add_sub_assoc (by omega), Nat.mod_add_mod,
    show head + 1 + (2 * size - 1 - j) = head + size - j + size by omega, Nat.add_mod_right]

end Circular

section History
variable {c : Params} {b : Bank} (hlen : b.hist.length = c.firSize) (hhead : b.head < c.firSize)
include hlen hhead

theorem filterStream_stepFir_shape (xs : List Flt) :
    let r := (filterStream (stepFir c) b xs).1
    r.coef = b.coef ∧ r.hist.length = c.firSize ∧ r.head = (b.head + xs.length) % c.firSize := by
  induction xs using List.reverseRecOn with
  | nil => exact ⟨rfl, hlen, (Nat.mod_eq_of_lt hhead).symm⟩
  | append_singleton xs x ih =>
    obtain ⟨hcoef, hlen', hhead'⟩ := ih
    simp only [filterStream_concat, stepFir]
    refine ⟨hcoef, (List.length_set).trans hlen', ?_⟩
    rw [hhead', Nat.mod_add_mod, List.length_append, List.length_singleton, Nat.add_assoc]

/-- After inputs in order the entry j places before head holds the input j places before the last; an entry that no input
reached is unchanged. -/
theorem filterStream_stepFir_hist (xs : List Flt) {j : Nat} (hj : j < c.firSize) :
    let r := (filterStream (stepFir c) b xs).1
    r.hist.getD (entryBefore c.firSize r.head j) fltZero =
      if j < xs.length then xs.getD (xs.length - 1 - j) fltZero
      else b.hist.getD (entryBefore c.firSize r.head j) fltZero := by
  induction xs using List.reverseRecOn generalizing j with
  | nil => rfl
  | append_singleton xs x ih =>
    obtain ⟨-, hlen', hhead'⟩ := filterStream_stepFir_shape hlen hhead xs
    have hlt : (filterStream (stepFir c) b xs).1.head < c.firSize := hhead' ▸ Nat.mod_lt _ (by omega)
    simp only [filterStream_concat, stepFir, List.length_append, List.length_singleton]
    generalize (filterStream (stepFir c) b xs).1 = r at hlen' hlt ih ⊢
    cases j with
    | zero =>
      rw [entryBefore_zero hlt, if_pos (Nat.succ_pos _), List.getD_eq_getElem _ _ (by rwa [List.length_set, hlen']),
        List.getElem_set_self]
      simp
    | succ j =>
      have hold := ih (show j < c.firSize by omega)
      rw [entryBefore_succ hj, List.getD_eq_getElem?_getD, List.getElem?_set_ne (entryBefore_ne hlt hj).symm,
        ← List.getD_eq_getElem?_getD]
      simp only [hold, Nat.add_lt_add_iff_right]
      split_ifs with h
      · rw [show xs.length + 1 - 1 - (j + 1) = xs.length - 1 - j by omega, List.getD_append _ _ _ _ (by omega)]
      · rfl

end History

/-- Settles O23: the head goes round, and the history by the entry's distance from it. -/
theorem firHistoryHoldsLastInputs : Obligations.FirHistoryHoldsLastInputs := by
  intro c b xs _ hlen hhead r
  refine ⟨(filterStream_stepFir_shape hlen hhead xs).2.2, fun j hj => ?_⟩
  have hentry := filterStream_stepFir_hist hlen hhead xs hj
  exact ⟨fun h => hentry.trans (if_pos h), fun h => hentry.trans (if_neg h.not_gt)⟩

/-! ### The impulse response -/

section Impulse
variable {c : Params} {b : Bank}

/-- Output n of a stream is the output of the step on input n, after the inputs before it. -/
theorem filterStream_getD {step : Bank → Flt → Bank × Flt} (b : Bank) (xs : List Flt) {n : Nat} (hn : n < xs.length) :
    (filterStream step b xs).2.getD n fltZero = (step (filterStream step b (xs.take n)).1 xs[n]).2 := by
  induction xs generalizing b n with
  | nil => exact absurd hn (Nat.not_lt_zero n)
  | cons x xs ih =>
    cases n with
    | zero => rfl
    | succ n => exact ih _ (Nat.lt_of_succ_lt_succ hn)

/-- What `step_FIR` reads for coefficient i at input n: the input i places back, +0.0 before the first one. -/
theorem stepFir_reads (hhist : b.hist = List.replicate c.firSize fltZero) (hhead : b.head < c.firSize) (xs : List Flt)
    {n i : Nat} (hn : n < xs.length) (hi : i < c.firSize) :
    let r := (filterStream (stepFir c) b (xs.take n)).1
    (r.hist.set r.head xs[n]).getD ((r.head + c.firSize - i) % c.firSize) fltZero =
      if i ≤ n then xs.getD (n - i) fltZero else fltZero := by
  intro r
  have hlen : b.hist.length = c.firSize := by rw [hhist, List.length_replicate]
  have hzero (k : Nat) : b.hist.getD k fltZero = fltZero :=
    getD_of_forall_mem (P := (· = fltZero)) (fun x hx => List.eq_of_mem_replicate (hhist ▸ hx)) rfl k
  have htake : xs.take n ++ [xs[n]] = xs.take (n + 1) := List.take_concat_get' xs n hn
  have hlength : (xs.take (n + 1)).length = n + 1 := by rw [List.length_take, Nat.min_eq_left hn]
  have hentry := filterStream_stepFir_hist hlen hhead (xs.take (n + 1)) hi
  dsimp only at hentry
  rw [hlength, hzero, List.getD_eq_getElem?_getD (l := xs.take (n + 1)), List.getElem?_take_of_lt (by omega),
    ← List.getD_eq_getElem?_getD, ← htake] at hentry
  simp only [filterStream_concat, stepFir, entryBefore_eq_read hi] at hentry
  exact hentry.trans (if_congr Nat.lt_succ_iff rfl rfl)

/-- The impulse: ONE, then zeros. -/
theorem impulse_getD (f : Fmt) (len k : Nat) :
    (fltOne f :: List.replicate len fltZero).getD k fltZero = if k = 0 then fltOne f else fltZero := by
  cases k with
  | zero => rfl
  | succ k =>
    rw [List.getD_cons_succ, if_neg k.succ_ne_zero]
    exact getD_of_forall_mem (P := (· = fltZero)) (fun _ hx => List.eq_of_mem_replicate hx) rfl k

end Impulse

/-- The accumulation of `step_FIR` depends on the terms below its size only. -/
theorem accumulate_congr (f : Fmt) (q : Nat → BitVec 64) {term term' : Nat → Flt} {n : Nat}
    (h : ∀ i, i < n → term i = term' i) : accumulate f q term n = accumulate f q term' n := by
  induction n with
  | zero => rfl
  | succ n ih => rw [accumulate, accumulate, ih fun i hi => h i (Nat.lt_succ_of_lt hi), h n (Nat.lt_succ_self n)]

/-- Settles O25: at input n every product is a zero but that of coefficient n, which is the coefficient. -/
theorem firImpulseResponse : Obligations.FirImpulseResponse := by
  intro c b len _ hcoefLen hhead hhist hcoef out n hn
  have hcoefAt (i : Nat) := getD_of_forall_mem hcoef ⟨fltZero_fits c.fmt, isFinite_fltZero c.fmt⟩ i
  have hxs : n < (fltOne c.fmt :: List.replicate len fltZero).length := by simpa using Nat.lt_succ_of_le hn
  let r := (filterStream (stepFir c) b ((fltOne c.fmt :: List.replicate len fltZero).take n)).1
  have hrcoef : r.coef = b.coef :=
    (filterStream_stepFir_shape (by rw [hhist, List.length_replicate]) hhead _).1
  let q := nanStream .fir r.draws
  let term := fun i => fmul c.fmt (q (c.firSize + i)) (b.coef.getD i fltZero) (if i = n then fltOne c.fmt else fltZero)
  have hout : out.getD n fltZero = accumulate c.fmt q term c.firSize := by
    refine (filterStream_getD b _ hxs).trans (accumulate_congr _ _ fun i hi => ?_)
    have hread := stepFir_reads hhist hhead _ hxs hi
    rw [impulse_getD] at hread
    have hplace : (if i ≤ n then if n - i = 0 then fltOne c.fmt else fltZero else fltZero) =
        if i = n then fltOne c.fmt else fltZero := by grind
    exact congrArg₂ (fmul c.fmt _) (by rw [← hrcoef]) (hread.trans hplace)
  have hterm : term n = b.coef.getD n fltZero := by
    simp only [term, if_true]
    exact fmul_fltOne_of_isFinite c.fmt _ (hcoefAt n).1 (hcoefAt n).2
  have hzero (i : Nat) (hi : i ≠ n) : Fits c.fmt (term i) ∧ isZero c.fmt (term i) = true := by
    simp only [term, if_neg hi]
    rw [fmul_of_isZero c.fmt _ (hcoefAt i).2 (isFinite_fltZero c.fmt) (.inr (isZero_packFlt_zero c.fmt false))]
    exact ⟨packFlt_fits _ _ _ (signWeight_pos _), isZero_packFlt_zero _ _⟩
  rw [hout, accumulate_of_single c.fmt n hzero (hterm ▸ (hcoefAt n).1) (hterm ▸ (hcoefAt n).2), hterm]

end Sys2Proof.Machine

/-! PROOFS. A reset with commands in flight: each command's writes stay inside the elements it reached, which are disjoint
from the others', and its counter goes on past the values it took (70_reset_and_hazards.md R551). -/

namespace Sys2Proof.Machine

/-! ### The elements an abandoned command reached -/

/-- The place of a unit in the order in which a reset draws its free values. -/
def resetDraw : UnitId → Nat
  | .fir => 0
  | .iir => 1
  | .win => 2

/-- How many elements the command in flight on a unit has written when a reset abandons it. -/
def reachedElements (s : State) (u : UnitId) : Nat :=
  match (s.bank u).pend with
  | none => 0
  | some p => Config.resetPrefix (s.freeCtr + resetDraw u) % (writtenElements s.cfg p + 1)

/-- Address a lies in an element that the command in flight on a unit has written when a reset abandons it. -/
def Reached (s : State) (u : UnitId) (a : Nat) : Prop :=
  ∃ p, (s.bank u).pend = some p ∧ p.op ∈ memWriters ∧ p.addr.toNat ≤ a ∧
    a < elemAddr s.cfg.fmt p.addr.toNat (reachedElements s u)

/-- A memory writer's one DMA range is its buffer, written. -/
theorem footprint_of_memWriter {p : Pend} (hi : p.op ∈ memWriters) (c : Params) :
    footprint c p = [⟨p.addr.toNat, p.len.toNat * fltBytes c.fmt, true⟩] := by
  simp only [memWriters, List.mem_cons, List.not_mem_nil, or_false] at hi
  rcases hi with hop | hop | hop | hop | hop | hop <;> simp only [footprint, hop]

/-- The writes before a reset change no byte outside the elements written. -/
theorem memAfterPrefix_frame {c : Params} {p : Pend} (k : Nat) (b : Bank) (m : Memory) (a : Nat)
    (ha : p.op ∈ memWriters → a < p.addr.toNat ∨ elemAddr c.fmt p.addr.toNat k ≤ a) :
    memGet (memAfterPrefix c p k b m) a = memGet m a := by
  by_cases hi : p.op ∈ memWriters
  · have houtside := ha hi
    have hloop (u : UnitId) (sample : Bank → Flt → Nat → Bank × Flt) (hs : ∀ b x k, SameRegs b (sample b x k).1) :
        memGet (processLoop c.fmt u sample p.addr.toNat none k 0 b m).2 a = memGet m a :=
      (processLoop_frame _ _ _ _ _ hs k 0 b m).2 a (by rwa [elemAddr_zero, Nat.zero_add])
    have hstore (u : UnitId) :
        memGet (storeLoop c.fmt u p.addr.toNat none ((coefVector b (c.nc u)).take k) 0 b m).2 a = memGet m a := by
      have hend := elemAddr_mono c.fmt p.addr.toNat (List.length_take_le k (coefVector b (c.nc u)))
      refine (storeLoop_frame _ _ _ _ _ 0 b m).2 a ?_
      rw [elemAddr_zero, Nat.zero_add]
      exact houtside.imp_right hend.trans
    simp only [memWriters, List.mem_cons, List.not_mem_nil, or_false] at hi
    rcases hi with hop | hop | hop | hop | hop | hop <;> simp only [memAfterPrefix, hop]
    · exact hloop _ _ fun b x _ => sameRegs_stepFir c b x
    · exact hloop _ _ fun b x _ => sameRegs_stepIir c b x
    · exact hloop _ _ fun b x k => sameRegs_windowSample c b x k
    · exact hstore _
    · exact hstore _
    · exact hstore _
  · rw [memAfterPrefix_eq hi]

section Abandon
variable {s : State} {u v : UnitId} {p : Pend} {a : Nat}

theorem abandon_eq (hp : (s.bank u).pend = some p) (m : Memory) :
    abandon s (s.freeCtr + resetDraw u) u m = memAfterPrefix s.cfg p (reachedElements s u) (s.bank u) m := by
  simp only [abandon, reachedElements, hp]

theorem memGet_abandon (h : ¬ Reached s u a) (m : Memory) :
    memGet (abandon s (s.freeCtr + resetDraw u) u m) a = memGet m a := by
  cases hp : (s.bank u).pend with
  | none => simp only [abandon, hp]
  | some p =>
    rw [abandon_eq hp]
    refine memAfterPrefix_frame _ _ _ _ fun hi => ?_
    by_contra hin
    simp only [not_or, not_lt, not_le] at hin
    exact h ⟨p, hp, hi, hin.1, hin.2⟩

variable (hinv : Inv s)
include hinv

theorem reachedElements_le (hp : (s.bank u).pend = some p) (hi : p.op ∈ memWriters) :
    reachedElements s u ≤ p.len.toNat := by
  have hlen := (buffer_of_memWriter hi (((hinv.banks u).pend p hp).checked)).2
  simp only [reachedElements, hp, hlen]
  exact Nat.le_of_lt_succ (Nat.mod_lt _ (Nat.succ_pos _))

/-- Two units in flight reach no common byte: their ranges do not conflict. -/
theorem not_reached_of_ne (hne : u ≠ v) (hu : Reached s u a) : ¬ Reached s v a := by
  rintro ⟨q, hq, hiq, hlq, huq⟩
  obtain ⟨p, hp, hip, hlp, hup⟩ := hu
  have hrace := hinv.noRace u v p q hne hp hq
  have hpk := elemAddr_mono s.cfg.fmt p.addr.toNat (reachedElements_le hinv hp hip)
  have hqk := elemAddr_mono s.cfg.fmt q.addr.toNat (reachedElements_le hinv hq hiq)
  have hpEnd : elemAddr s.cfg.fmt p.addr.toNat p.len.toNat = p.addr.toNat + p.len.toNat * fltBytes s.cfg.fmt := rfl
  have hqEnd : elemAddr s.cfg.fmt q.addr.toNat q.len.toNat = q.addr.toNat + q.len.toNat * fltBytes s.cfg.fmt := rfl
  simp only [pendsConflict, footprint_of_memWriter hip, footprint_of_memWriter hiq, List.any_cons, List.any_nil,
    Bool.or_false, DmaRange.conflicts, DmaRange.touches, Bool.or_self, Bool.and_true, Bool.and_eq_false_iff,
    decide_eq_false_iff_not] at hrace
  omega

/-- A reset's memory on the elements a unit reached: what that unit's writes leave there, from a memory that holds the old
bytes there. -/
theorem exists_blockReset_mem (hp : (s.bank u).pend = some p) :
    ∃ m, Memory.wf m = true ∧ (∀ a, Reached s u a → memGet m a = memGet s.mem a) ∧
      ∀ a, Reached s u a →
        memGet (blockReset s).mem a = memGet (memAfterPrefix s.cfg p (reachedElements s u) (s.bank u) m) a := by
  have hsound (n : Nat) (u : UnitId) {m : Memory} (h : MemSound m) : MemSound (abandon s n u m) :=
    abandon_memSound (fun u p hp => ((hinv.banks u).pend p hp).checked) n u h
  have hmem : MemSound s.mem := ⟨hinv.memWf, hinv.memTop⟩
  have hother {v : UnitId} (hne : u ≠ v) {a : Nat} (ha : Reached s u a) (m : Memory) :
      memGet (abandon s (s.freeCtr + resetDraw v) v m) a = memGet m a :=
    memGet_abandon (not_reached_of_ne hinv hne ha) m
  cases u with
  | fir =>
    refine ⟨s.mem, hinv.memWf, fun _ _ => rfl, fun a ha => ?_⟩
    rw [← abandon_eq hp]
    exact (hother (v := .win) (by decide) ha _).trans (hother (v := .iir) (by decide) ha _)
  | iir =>
    refine ⟨_, (hsound (s.freeCtr + resetDraw .fir) .fir hmem).1, fun a ha => hother (by decide) ha _, fun a ha => ?_⟩
    rw [← abandon_eq hp]
    exact hother (v := .win) (by decide) ha _
  | win =>
    refine ⟨_, (hsound (s.freeCtr + resetDraw .iir) .iir (hsound (s.freeCtr + resetDraw .fir) .fir hmem)).1,
      fun a ha => (hother (by decide) ha _).trans (hother (by decide) ha _), fun a _ => ?_⟩
    rw [← abandon_eq hp]
    rfl

omit hinv in
/-- A reset changes no byte that no command has reached. -/
theorem memGet_blockReset (h : ∀ u, ¬ Reached s u a) : memGet (blockReset s).mem a = memGet s.mem a :=
  ((memGet_abandon (h .win) _).trans (memGet_abandon (h .iir) _)).trans (memGet_abandon (h .fir) _)

end Abandon

/-! ### What the elements hold -/

theorem sameCore_accept (b : Bank) (p : Pend) : SameCore b (b.accept p) := ⟨rfl, rfl, rfl, rfl⟩

/-- The writes before a reset depend on the core of the bank only. -/
theorem memAfterPrefix_accept (c : Params) (p : Pend) (k : Nat) (b : Bank) (m : Memory) :
    memAfterPrefix c p k b m = memAfterPrefix c p k (b.accept p) m := by
  have hcore := sameCore_accept b p
  unfold memAfterPrefix
  split
  · exact (engineRel_sameCore.processLoop (fun x _ h => engineRel_sameCore.stepFir h c x) _ _ _ hcore).2
  · exact (engineRel_sameCore.processLoop (fun x _ h => engineRel_sameCore.stepIir h c x) _ _ _ hcore).2
  · exact (engineRel_sameCore.processLoop (fun x k h => engineRel_sameCore.windowSample h c x k) _ _ _ hcore).2
  iterate 3 exact (engineRel_sameCore.storeLoop _ _ _ hcore).2
  all_goals rfl

/-- The counter after a reset is that after the whole command. -/
theorem drawsAfterReset_eq {s : State} {u : UnitId} {p : Pend} (hp : (s.bank u).pend = some p) :
    drawsAfterReset s u = (engineOf p.op s.cfg p none ((s.bank u).accept p) s.mem).1.draws := by
  simp only [drawsAfterReset, hp]
  exact (engineOf_rel engineRel_sameCore p.op s.cfg p none s.mem (sameCore_accept _ p)).1.2.2.2

/-- A stream whose step takes d values per sample takes d for each. -/
theorem filterStream_draws {step : Bank → Flt → Bank × Flt} {d : Nat} (hd : ∀ b x, (step b x).1.draws = b.draws + d)
    (b : Bank) (xs : List Flt) : (filterStream step b xs).1.draws = b.draws + xs.length * d := by
  induction xs generalizing b with
  | nil => simp [filterStream]
  | cons x xs ih => rw [filterStream, ih, hd, List.length_cons]; ring

section Elements
variable {s : State} (hinv : Inv s) {u : UnitId} {p : Pend} (hp : (s.bank u).pend = some p)
include hinv hp

/-- The elements of an abandoned PROCESS hold the stream's outputs, and the counter is past the values they took. -/
theorem stream_abandoned {step : Bank → Flt → Bank × Flt} {d : Nat} (hstep : IsStream s.cfg p.op step)
    (hwrites : p.op ∈ memWriters) (hd : ∀ b x, (step b x).1.draws = b.draws + d)
    (hmem : ∀ k b m, memAfterPrefix s.cfg p k b m =
      (processLoop s.cfg.fmt p.op.unit (fun b x _ => step b x) p.addr.toNat none k 0 b m).2) :
    let k := reachedElements s u
    let r := filterStream step (s.bank u) (readVector s.cfg.fmt s.mem p.addr.toNat k)
    k ≤ p.len.toNat ∧ readVector s.cfg.fmt (blockReset s).mem p.addr.toNat k = r.2 ∧
      r.1.draws ≤ ((blockReset s).bank u).draws := by
  intro k r
  have hk := reachedElements_le hinv hp hwrites
  have hreached (a : Nat) (hlo : p.addr.toNat ≤ a) (hhi : a < p.addr.toNat + k * fltBytes s.cfg.fmt) : Reached s u a :=
    ⟨p, hp, hwrites, hlo, hhi⟩
  obtain ⟨m, hwf, hold, hnew⟩ := exists_blockReset_mem hinv hp
  refine ⟨hk, ?_, ?_⟩
  · obtain ⟨m', hloop, hread, -, -⟩ := processLoop_stream_accept hstep.sample p.op.unit p.addr.toNat k (s.bank u) p hwf
    have hafter : memAfterPrefix s.cfg p k (s.bank u) m = m' := by rw [memAfterPrefix_accept, hmem, hloop]
    have hinput : readVector s.cfg.fmt m p.addr.toNat k = readVector s.cfg.fmt s.mem p.addr.toNat k :=
      readVector_congr _ _ _ _ _ fun a hlo hhi => hold a (hreached a hlo hhi)
    rw [readVector_congr _ _ m' _ _ fun a hlo hhi => (hnew a (hreached a hlo hhi)).trans (by rw [hafter]), hread, hinput]
  · obtain ⟨m', hloop, -⟩ :=
      processLoop_stream_accept hstep.sample p.op.unit p.addr.toNat p.len.toNat (s.bank u) p hinv.memWf
    have hdraws : ((blockReset s).bank u).draws =
        (filterStream step (s.bank u) (readVector s.cfg.fmt s.mem p.addr.toNat p.len.toNat)).1.draws := by
      rw [blockReset_bank, show (Bank.reset s.cfg u (drawsAfterReset s u)).draws = drawsAfterReset s u from rfl,
        drawsAfterReset_eq hp, hstep.engine, hloop]
      rfl
    rw [hdraws, filterStream_draws hd, filterStream_draws hd, readVector_length, readVector_length]
    exact Nat.add_le_add_left (Nat.mul_le_mul_right d hk) _

/-- The elements of an abandoned WIN PROCESS hold the products, and the counter is past the values they took. -/
theorem window_abandoned (hop : p.op = .winProcess) :
    let b := s.bank u
    let k := reachedElements s u
    k ≤ p.len.toNat ∧ b.draws + k ≤ ((blockReset s).bank u).draws ∧
      ∀ j, j < k → readFlt s.cfg.fmt (blockReset s).mem (elemAddr s.cfg.fmt p.addr.toNat j) =
        fmul s.cfg.fmt (Config.nanDraw .win (b.draws + j)) (readFlt s.cfg.fmt s.mem (elemAddr s.cfg.fmt p.addr.toNat j))
          (b.coef.getD j fltZero) := by
  intro b k
  have hwrites : p.op ∈ memWriters := by rw [hop]; decide
  have hk := reachedElements_le hinv hp hwrites
  obtain ⟨m, hwf, hold, hnew⟩ := exists_blockReset_mem hinv hp
  refine ⟨hk, ?_, fun j hj => ?_⟩
  · obtain ⟨m', hloop, -⟩ := processLoop_window_accept s.cfg p.addr.toNat p.len.toNat b p hinv.memWf
    have hdraws : ((blockReset s).bank u).draws = b.draws + p.len.toNat := by
      rw [blockReset_bank, show (Bank.reset s.cfg u (drawsAfterReset s u)).draws = drawsAfterReset s u from rfl,
        drawsAfterReset_eq hp, hop, show engineOf .winProcess s.cfg p none (b.accept p) s.mem =
          processLoop s.cfg.fmt .win (windowSample s.cfg) p.addr.toNat none p.len.toNat 0 (b.accept p) s.mem from rfl, hloop]
      rfl
    rw [hdraws]
    exact Nat.add_le_add_left hk _
  · obtain ⟨m', hloop, hread, -⟩ := processLoop_window_accept s.cfg p.addr.toNat k b p hwf
    have hafter : memAfterPrefix s.cfg p k b m = m' := by
      rw [memAfterPrefix_accept]
      simp only [memAfterPrefix, hop, hloop]
    have hend := elemAddr_mono s.cfg.fmt p.addr.toNat (show j + 1 ≤ k from hj)
    rw [elemAddr_succ] at hend
    have hreached (a : Nat) (hlo : elemAddr s.cfg.fmt p.addr.toNat j ≤ a)
        (hhi : a < elemAddr s.cfg.fmt p.addr.toNat j + fltBytes s.cfg.fmt) : Reached s u a :=
      ⟨p, hp, hwrites, (Nat.le_add_right _ _).trans hlo, hhi.trans_le hend⟩
    rw [readFlt_congr fun a hlo hhi => (hnew a (hreached a hlo hhi)).trans (by rw [hafter]), hread j hj,
      readFlt_congr fun a hlo hhi => hold a (hreached a hlo hhi)]

/-- The elements of an abandoned GET_FACTORS hold the first coefficients. -/
theorem getFactors_abandoned (hop : p.op ∈ [Instr.firGetFactors, .iirGetFactors, .winGetFactors]) :
    reachedElements s u ≤ p.len.toNat ∧
      readVector s.cfg.fmt (blockReset s).mem p.addr.toNat (reachedElements s u) =
        (s.bank u).coef.take (reachedElements s u) := by
  have hwrites : p.op ∈ memWriters := List.mem_of_mem_drop (i := 3) hop
  have hk := reachedElements_le hinv hp hwrites
  have hb := hinv.banks u
  have hpend := hb.pend p hp
  have hcount : s.cfg.nc u = p.len.toNat := by
    have hwritten := (buffer_of_memWriter hwrites hpend.checked).2
    simp only [List.mem_cons, List.not_mem_nil, or_false] at hop
    rw [← hwritten, ← hpend.unit]
    rcases hop with hop | hop | hop <;> simp only [writtenElements, hop]
  have hvector : coefVector (s.bank u) (s.cfg.nc p.op.unit) = (s.bank u).coef := by
    rw [hpend.unit]
    exact coefVector_eq hb.coefLen
  generalize hkdef : reachedElements s u = k at hk
  have hlength : ((s.bank u).coef.take k).length = k := by
    rw [List.length_take, hb.coefLen, hcount, Nat.min_eq_left hk]
  obtain ⟨m, hwf, hold, hnew⟩ := exists_blockReset_mem hinv hp
  obtain ⟨m', hloop, hread, -⟩ := storeLoop_accept s.cfg.fmt p.op.unit p.addr.toNat p ((s.bank u).coef.take k) (s.bank u)
    hwf fun v hv => hb.coefFit v (List.mem_of_mem_take hv)
  rw [hlength] at hread
  have hafter : memAfterPrefix s.cfg p k (s.bank u) m = m' := by
    have hstore : memAfterPrefix s.cfg p k (s.bank u) m = (storeLoop s.cfg.fmt p.op.unit p.addr.toNat none
        ((coefVector (s.bank u) (s.cfg.nc p.op.unit)).take k) 0 (s.bank u) m).2 := by
      simp only [List.mem_cons, List.not_mem_nil, or_false] at hop
      rcases hop with hop | hop | hop <;> simp only [memAfterPrefix, hop]
    rw [hstore, hvector, (engineRel_sameCore.storeLoop _ _ _ (sameCore_accept (s.bank u) p)).2, hloop]
  refine ⟨hk, (readVector_congr _ _ m' _ _ fun a hlo hhi => ?_).trans hread⟩
  rw [hnew a ⟨p, hp, hwrites, hlo, by rw [hkdef]; exact hhi⟩, hkdef, hafter]

end Elements

/-- Settles O57: each unit's elements by its command, every other byte by none having reached it. -/
theorem resetAbandonsCommands : Obligations.ResetAbandonsCommands := by
  intro s hinv f t streams getters
  refine ⟨fun u => ?_, reachedElements s, fun u p hp => ⟨fun step hstep => ?_, window_abandoned hinv hp,
    getFactors_abandoned hinv hp⟩, fun a ha => memGet_blockReset fun u => ?_⟩
  · simp only [t, blockReset_bank]
    exact ⟨rfl, rfl⟩
  · simp only [streams, List.mem_cons, List.not_mem_nil, or_false, Prod.mk.injEq] at hstep
    obtain ⟨hop, rfl⟩ | ⟨hop, rfl⟩ := hstep
    · exact stream_abandoned hinv hp (hop ▸ isStream_fir s.cfg) (by rw [hop]; decide) (fun _ _ => rfl)
        fun k b m => by simp only [memAfterPrefix, hop, Instr.unit]
    · exact stream_abandoned hinv hp (hop ▸ isStream_iir s.cfg) (by rw [hop]; decide) (fun _ _ => rfl)
        fun k b m => by simp only [memAfterPrefix, hop, Instr.unit]
  · rintro ⟨p, hp, hwrites, hlo, hhi⟩
    have hcommand : p.op ∈ streams.map Prod.fst ∨ p.op = .winProcess ∨ p.op ∈ getters := by
      simp only [memWriters, List.mem_cons, List.not_mem_nil, or_false] at hwrites
      simp only [streams, getters, List.map_cons, List.map_nil, List.mem_cons, List.not_mem_nil, or_false]
      tauto
    rcases ha u p hp hcommand with hlt | hge
    · exact hlt.not_ge hlo
    · exact hhi.not_ge hge

end Sys2Proof.Machine

/-! PROOFS. The window ROM's symmetry, end points, centre and range (44_window.md R452). -/

namespace Sys2Proof.Machine

/-! ### The cosines in fixed point -/

section Cosines
variable {r r' d : Nat}

/-- Angles that add up to whole turns have one cosine. -/
theorem cosTurn_of_dvd_add (hd : 0 < d) (h : d ∣ r + r') : cosTurn r d = cosTurn r' d := by
  have hr := Nat.mod_lt r hd
  have hr' := Nat.mod_lt r' hd
  have hsum : (r % d + r' % d) % d = 0 := (Nat.add_mod r r' d).symm.trans (Nat.mod_eq_zero_of_dvd h)
  have hmin : min (r % d) (d - r % d) = min (r' % d) (d - r' % d) := by
    rcases Nat.lt_or_ge (r % d + r' % d) d with hlt | hge
    · rw [Nat.mod_eq_of_lt hlt] at hsum
      omega
    · rw [Nat.mod_eq_sub_mod hge, Nat.mod_eq_of_lt (by omega)] at hsum
      omega
  unfold cosTurn
  rw [hmin]

theorem cosQuad_zero (d : Nat) : cosQuad 0 d = fixOne := if_pos rfl

theorem cosTurn_of_dvd (h : d ∣ r) : cosTurn r d = fixOne := by
  simp only [cosTurn, Nat.mod_eq_zero_of_dvd h, Nat.zero_min, Nat.mul_zero, Nat.zero_le, if_true, cosQuad_zero]

/-- The cosine of half a turn. -/
theorem cosTurn_half (hr : 0 < r) : cosTurn r (2 * r) = -(fixOne : Int) := by
  have hmod : r % (2 * r) = r := Nat.mod_eq_of_lt (by omega)
  have hmin : 2 * min r (2 * r - r) = 2 * r := by omega
  simp only [cosTurn, hmod, hmin]
  rw [if_neg (by omega), Nat.sub_self, cosQuad_zero]

theorem cosTail_le (x2 k n : Nat) : cosTail x2 k n ≤ fixOne := by
  cases n with
  | zero => exact le_rfl
  | succ n => exact Nat.sub_le _ _

theorem cosQuad_le (a d : Nat) : cosQuad a d ≤ fixOne := by
  unfold cosQuad
  split_ifs
  · exact le_rfl
  · exact Nat.zero_le _
  · exact Nat.div_le_self _ _
  · exact cosTail_le _ _ _

theorem cosTurn_bounds (r d : Nat) : -(fixOne : Int) ≤ cosTurn r d ∧ cosTurn r d ≤ fixOne := by
  have hquad (a : Nat) : 0 ≤ (cosQuad a d : Int) ∧ (cosQuad a d : Int) ≤ fixOne :=
    ⟨Int.natCast_nonneg _, Int.ofNat_le.mpr (cosQuad_le a d)⟩
  have hnear := hquad (2 * min (r % d) (d - r % d))
  have hfar := hquad (d - 2 * min (r % d) (d - r % d))
  unfold cosTurn
  dsimp only
  split_ifs <;> omega

end Cosines

/-! ### The tables -/

/-- The tables' values depend on the two cosines. -/
theorem tableValue_congr (t : Table) {size n n' : Nat} (h1 : cosTurn n (size - 1) = cosTurn n' (size - 1))
    (h2 : cosTurn (2 * n) (size - 1) = cosTurn (2 * n') (size - 1)) : tableValue t size n = tableValue t size n' := by
  unfold tableValue
  rw [h1, h2]

theorem tableValue_symm (t : Table) {size n : Nat} (hsize : 2 ≤ size) (hn : n < size) :
    tableValue t size n = tableValue t size (size - 1 - n) := by
  have hd : 0 < size - 1 := by omega
  refine tableValue_congr t (cosTurn_of_dvd_add hd ⟨1, by omega⟩) (cosTurn_of_dvd_add hd ⟨2, by omega⟩)

/-- The value at an end of a table. -/
def endValue : Table → Int
  | .hamming => 8 * fixOne
  | .hann => 0
  | .blackman => 0

theorem tableValue_zero (t : Table) (size : Nat) : tableValue t size 0 = endValue t := by
  have hcos := cosTurn_of_dvd (dvd_zero (size - 1))
  cases t <;> simp only [tableValue, endValue, Nat.mul_zero, hcos] <;> ring

theorem tableValue_centre (t : Table) {size : Nat} (hsize : 2 ≤ size) (hodd : size % 2 = 1) :
    tableValue t size ((size - 1) / 2) = 100 * fixOne := by
  have htwice : size - 1 = 2 * ((size - 1) / 2) := by omega
  have hhalf : cosTurn ((size - 1) / 2) (size - 1) = -(fixOne : Int) :=
    (congrArg _ htwice).trans (cosTurn_half (by omega))
  have hturn : cosTurn (2 * ((size - 1) / 2)) (size - 1) = fixOne := cosTurn_of_dvd ⟨1, by omega⟩
  cases t <;> simp only [tableValue, hhalf, hturn] <;> ring

theorem tableValue_le (t : Table) (size n : Nat) : tableValue t size n ≤ 100 * fixOne := by
  obtain ⟨hlo1, -⟩ := cosTurn_bounds n (size - 1)
  obtain ⟨-, hhi2⟩ := cosTurn_bounds (2 * n) (size - 1)
  cases t <;> simp only [tableValue] <;> omega

section Entries
variable (f : Fmt)

/-- What an entry rounds to from 100 times its value in fixed point. -/
def romRound (v : Int) : Flt := packFlt f false (roundMag f (v.toNat * 2 ^ quantumExp f) (100 * fixOne))

theorem romEntry_eq (t : Table) (size n : Nat) : romEntry t f size n = romRound f (tableValue t size n) := rfl

/-- Rounding does not pass a representable bound. -/
theorem roundMag_le_of_le {num den m : Nat} (hden : 0 < den) (hm : m ≤ infMag f) (h : num ≤ magUnits f m * den) :
    roundMag f num den ≤ m := by
  obtain ⟨lo, hlo, -, hround⟩ := exists_roundMag_eq_nearerOf f num hden
  rcases Nat.lt_or_ge lo m with hlt | hge
  · have hnear : nearerOf f num den lo ≤ lo + 1 := by
      rcases nearerOf_cases (f := f) (num := num) (den := den) (lo := lo) with ⟨hr, -⟩ | ⟨hr, -⟩ <;> omega
    exact hround.trans_le ((Nat.min_le_right _ _).trans (hnear.trans hlt))
  · have hexact : num = magUnits f m * den := le_antisymm h ((magUnits_mul_le hge).trans hlo)
    rw [hexact, roundMag_magUnits f hden hm]

theorem fixOne_pos : 0 < fixOne := Nat.two_pow_pos _

theorem hundred_fixOne_pos : 0 < 100 * fixOne := Nat.mul_pos (by decide) fixOne_pos

theorem toNat_hundred_fixOne : (100 * (fixOne : Int)).toNat = 100 * fixOne := rfl

theorem romRound_one : romRound f (100 * fixOne) = fltOne f := by
  have hone : 100 * fixOne * 2 ^ quantumExp f = magUnits f (fltMag f (fltOne f)) * (100 * fixOne) := by
    rw [← fltUnits.eq_def, fltUnits_fltOne, Nat.mul_comm]
  have hfin : fltMag f (fltOne f) ≤ infMag f := (of_decide_eq_true (isFinite_fltOne f)).le
  rw [romRound, toNat_hundred_fixOne, hone, roundMag_magUnits f hundred_fixOne_pos hfin, ← fltNeg_fltOne f,
    packFlt_eta f _ (fltOne_fits f)]

theorem romRound_zero : romRound f 0 = fltZero := by
  have hround := roundMag_magUnits f hundred_fixOne_pos (Nat.zero_le (infMag f))
  rw [magUnits_zero, Nat.zero_mul] at hround
  rw [romRound, Int.toNat_zero, Nat.zero_mul, hround]
  rfl

/-- The encoding of 0.08. -/
theorem romRound_hamming_end :
    romRound f (8 * fixOne) = (match f with | .b32 => 0x3DA3D70A#64 | .b64 => 0x3FB47AE147AE147B#64) := by
  cases f <;> decide +kernel

theorem fltMag_romRound_le {v : Int} (h : v ≤ 100 * fixOne) : fltMag f (romRound f v) ≤ fltMag f (fltOne f) := by
  have hfin : fltMag f (fltOne f) ≤ infMag f := (of_decide_eq_true (isFinite_fltOne f)).le
  have hv : v.toNat ≤ 100 * fixOne := Int.toNat_le.mpr h
  rw [romRound, fltMag_packFlt f _ _ (roundMag_lt f _ _)]
  refine roundMag_le_of_le f hundred_fixOne_pos hfin ?_
  rw [← fltUnits.eq_def, fltUnits_fltOne, Nat.mul_comm]
  exact Nat.mul_le_mul_left _ hv

end Entries

/-- Settles O43: symmetry and the exact values from the cosines, the bound from the rounding's. -/
theorem romTablesAreSymmetric : Obligations.RomTablesAreSymmetric := by
  intro f size hsize
  refine ⟨fun t n hn => ?_, ?_, ?_, ?_, fun t hodd => ?_, fun t n _ => ⟨?_, ?_⟩⟩
  · rw [romEntry_eq, tableValue_symm t hsize hn, romEntry_eq]
  · rw [romEntry_eq, tableValue_zero]
    exact romRound_hamming_end f
  · rw [romEntry_eq, tableValue_zero]
    exact romRound_zero f
  · rw [romEntry_eq, tableValue_zero]
    exact romRound_zero f
  · rw [romEntry_eq, tableValue_centre t hsize hodd]
    exact romRound_one f
  · exact fltNeg_packFlt f _ _ (roundMag_lt f _ _)
  · exact fltMag_romRound_le f (tableValue_le t size n)

end Sys2Proof.Machine

/-! PROOFS. The window ROM's cosines against the real cosine: the truncation of the series, and the errors of the fixed
point, which the nested evaluation damps (44_window.md R451; log 14). -/

namespace Sys2Proof.Machine

/-! ### The cosine series in nested form -/

section Series

/-- A term of the cosine series, z the square of the angle. -/
noncomputable def cosTerm (z : ℝ) (j : ℕ) : ℝ := (-1) ^ j * z ^ j / (2 * j).factorial

/-- The nested tail of the series, as `cosTail` has it in fixed point. -/
noncomputable def cosNest (z : ℝ) : ℕ → ℕ → ℝ
  | _, 0 => 1
  | k, n + 1 => 1 - z * cosNest z (k + 1) n / ((2 * k - 1) * (2 * k))

theorem cosTerm_succ (z : ℝ) (j : ℕ) :
    cosTerm z (j + 1) = -(cosTerm z j * (z / ((2 * (j + 1 : ℕ) - 1) * (2 * (j + 1 : ℕ))))) := by
  have hpos : ((2 * j).factorial : ℝ) ≠ 0 := Nat.cast_ne_zero.mpr (Nat.factorial_ne_zero _)
  have hodd : (2 * (j : ℝ) + 1) ≠ 0 := by positivity
  unfold cosTerm
  rw [show 2 * (j + 1) = 2 * j + 1 + 1 by ring, Nat.factorial_succ, Nat.factorial_succ]
  push_cast
  have h1 : (2 * ((j : ℝ) + 1) - 1) = 2 * j + 1 := by ring
  rw [h1]
  field_simp
  ring

/-- The nested tail behind the first terms completes their sum to a longer one. -/
theorem sum_add_cosNest (z : ℝ) (n j : ℕ) :
    ∑ i ∈ Finset.range j, cosTerm z i + cosTerm z j * cosNest z (j + 1) n =
      ∑ i ∈ Finset.range (j + n + 1), cosTerm z i := by
  induction n generalizing j with
  | zero => rw [cosNest, mul_one, Nat.add_zero, Finset.sum_range_succ]
  | succ n ih =>
    rw [show j + (n + 1) + 1 = j + 1 + n + 1 by ring, ← ih, Finset.sum_range_succ, cosNest, cosTerm_succ]
    ring

theorem cosNest_eq_sum (z : ℝ) (n : ℕ) : cosNest z 1 n = ∑ i ∈ Finset.range (n + 1), cosTerm z i := by
  have h := sum_add_cosNest z n 0
  rw [Finset.sum_range_zero, zero_add, zero_add, zero_add] at h
  rw [← h]
  simp [cosTerm]

/-- A sum of first terms of the cosine series is the real part of one of the exponential series. -/
theorem sum_cosTerm_eq_re (x : ℝ) (N : ℕ) :
    ∑ i ∈ Finset.range N, cosTerm (x ^ 2) i =
      (∑ m ∈ Finset.range (2 * N), (x * Complex.I) ^ m / (m.factorial : ℂ)).re := by
  induction N with
  | zero => simp
  | succ N ih =>
    have heven : (x * Complex.I) ^ (2 * N) / ((2 * N).factorial : ℂ) = ((cosTerm (x ^ 2) N : ℝ) : ℂ) := by
      rw [mul_pow, pow_mul Complex.I, Complex.I_sq, cosTerm]
      push_cast
      ring
    have hodd : ((x * Complex.I) ^ (2 * N + 1) / ((2 * N + 1).factorial : ℂ)).re = 0 := by
      have hreal : (x * Complex.I) ^ (2 * N + 1) / ((2 * N + 1).factorial : ℂ) =
          ((x ^ (2 * N + 1) * (-1) ^ N / (2 * N + 1).factorial : ℝ) : ℂ) * Complex.I := by
        rw [mul_pow, pow_succ Complex.I, pow_mul Complex.I, Complex.I_sq]
        push_cast
        ring
      rw [hreal, Complex.re_ofReal_mul, Complex.I_re, mul_zero]
    rw [Finset.sum_range_succ, ih, show 2 * (N + 1) = 2 * N + 1 + 1 by ring, Finset.sum_range_succ, Finset.sum_range_succ,
      Complex.add_re, Complex.add_re, heven, hodd, Complex.ofReal_re, add_zero]

/-- 40 steps of the series are far nearer to the cosine than the bound. -/
theorem abs_cosNest_sub_cos_le {x : ℝ} (h0 : 0 ≤ x) (h2 : x ≤ 2) : |cosNest (x ^ 2) 1 40 - Real.cos x| ≤ 1 / 10 ^ 30 := by
  have hnorm : ‖(x * Complex.I : ℂ)‖ = x := by simp [abs_of_nonneg h0]
  have hbound := Complex.exp_bound' (x := x * Complex.I) (n := 82) (by rw [hnorm, Nat.succ_eq_add_one]; push_cast; linarith)
  have hcos : Real.cos x = (Complex.exp (x * Complex.I)).re := (Complex.exp_ofReal_mul_I_re x).symm
  have hpow : x ^ 82 ≤ 2 ^ 82 := pow_le_pow_left₀ h0 h2 82
  rw [cosNest_eq_sum, sum_cosTerm_eq_re, hcos, ← Complex.sub_re]
  refine (Complex.abs_re_le_norm _).trans ?_
  rw [norm_sub_rev]
  refine hbound.trans ?_
  rw [hnorm]
  calc
    x ^ 82 / (Nat.factorial 82 : ℝ) * 2 ≤ 2 ^ 82 / (Nat.factorial 82 : ℝ) * 2 := by gcongr
    _ ≤ 1 / 10 ^ 30 := by norm_num [Nat.factorial]

theorem twelve_le_divisor {k : ℕ} (hk : 2 ≤ k) : (12 : ℝ) ≤ (2 * k - 1) * (2 * k) := by
  have h : (2 : ℝ) ≤ k := by exact_mod_cast hk
  nlinarith

/-- Behind the first step the nested tail lies between 0 and 1 for angles of the first quarter turn. -/
theorem cosNest_mem {z : ℝ} (h0 : 0 ≤ z) (h : z ≤ 5 / 2) (k : ℕ) (hk : 2 ≤ k) (n : ℕ) :
    0 ≤ cosNest z k n ∧ cosNest z k n ≤ 1 := by
  induction n generalizing k with
  | zero => exact ⟨zero_le_one, le_rfl⟩
  | succ n ih =>
    obtain ⟨hlo, hhi⟩ := ih (k + 1) (by omega)
    have hm := twelve_le_divisor hk
    have hm0 := (by norm_num : (0 : ℝ) < 12).trans_le hm
    have hnum : z * cosNest z (k + 1) n ≤ 5 / 2 := (mul_le_of_le_one_right h0 hhi).trans h
    have hquot : z * cosNest z (k + 1) n / ((2 * k - 1) * (2 * k)) ≤ 1 := (div_le_one hm0).mpr (by linarith)
    have hpos : 0 ≤ z * cosNest z (k + 1) n / ((2 * k - 1) * (2 * k)) := div_nonneg (mul_nonneg h0 hlo) hm0.le
    rw [cosNest]
    constructor <;> linarith

end Series

/-! ### The fixed point -/

section FixedPoint

/-- The real value of a number in the ROM's fixed point. -/
noncomputable def fixReal (n : ℕ) : ℝ := n / fixOne

/-- The weight of the last place. -/
noncomputable def fixUlp : ℝ := 1 / fixOne

theorem fixOne_cast_pos : (0 : ℝ) < fixOne := Nat.cast_pos.mpr fixOne_pos

theorem fixUlp_nonneg : 0 ≤ fixUlp := (div_pos one_pos fixOne_cast_pos).le

theorem fixUlp_le : fixUlp ≤ 1 / 10 ^ 30 := by
  rw [fixUlp, fixOne]
  norm_num

theorem fixReal_nonneg (n : ℕ) : 0 ≤ fixReal n := div_nonneg n.cast_nonneg fixOne_cast_pos.le

theorem fixReal_fixOne : fixReal fixOne = 1 := div_self fixOne_cast_pos.ne'

theorem fixReal_fixOne_half : fixReal (fixOne / 2) = 1 / 2 := by
  have hdvd : 2 ∣ fixOne := dvd_pow_self 2 (by decide)
  rw [fixReal, Nat.cast_div_charZero hdvd, Nat.cast_ofNat, div_right_comm, div_self fixOne_cast_pos.ne']

theorem fixReal_le_one {n : ℕ} (h : n ≤ fixOne) : fixReal n ≤ 1 :=
  (div_le_one fixOne_cast_pos).mpr (Nat.cast_le.mpr h)

/-- A whole-number division loses less than one unit in the last place. -/
theorem abs_fixReal_div_sub_le (n : ℕ) {m : ℕ} (hm : 0 < m) : |fixReal (n / m) - fixReal n / m| ≤ fixUlp := by
  have hm' : (0 : ℝ) < m := Nat.cast_pos.mpr hm
  have hle : ((n / m : ℕ) : ℝ) ≤ n / m := Nat.cast_div_le
  have hlt : (n : ℝ) / m ≤ (n / m : ℕ) + 1 := by
    rw [div_le_iff₀ hm']
    exact_mod_cast (Nat.lt_div_mul_add hm (a := n)).le.trans_eq (by ring)
  have hsplit : fixReal (n / m) - fixReal n / m = (((n / m : ℕ) : ℝ) - n / m) / fixOne := by
    unfold fixReal
    ring
  rw [hsplit, abs_div, abs_of_pos fixOne_cast_pos, fixUlp]
  gcongr
  rw [abs_le]
  constructor <;> linarith

theorem fixReal_mul_div_fixOne (a b : ℕ) : fixReal (a * b) / fixOne = fixReal a * fixReal b := by
  unfold fixReal
  push_cast
  field_simp

/-- A difference cut at 0 is no farther from a value that is not negative than the difference itself. -/
theorem abs_fixReal_sub_le {q : ℕ} {c : ℝ} (hc : 0 ≤ c) : |fixReal (fixOne - q) - c| ≤ |1 - fixReal q - c| := by
  rcases Nat.le_total q fixOne with hq | hq
  · have hsub : fixReal (fixOne - q) = 1 - fixReal q := by
      rw [← fixReal_fixOne]
      unfold fixReal
      rw [Nat.cast_sub hq, sub_div]
    rw [hsub]
  · have hone : 1 ≤ fixReal q := (one_le_div fixOne_cast_pos).mpr (Nat.cast_le.mpr hq)
    have hzero : fixReal (fixOne - q) = 0 := by rw [Nat.sub_eq_zero_of_le hq, fixReal, Nat.cast_zero, zero_div]
    rw [hzero, zero_sub, abs_neg, abs_of_nonneg hc, abs_of_nonpos (by linarith)]
    linarith

/-- The step of the nested tail before its subtraction: a product and one division, with the error of the square and that of
the inner tail. -/
theorem abs_step_sub_le {x2 t m : ℕ} {z T : ℝ} (hm : 0 < m) (ht : t ≤ fixOne) (hz : 0 ≤ z) :
    |fixReal (x2 * t / fixOne / m) - z * T / m| ≤ fixUlp + (|fixReal x2 - z| + z * |fixReal t - T|) / m := by
  have hm' : (0 : ℝ) < m := Nat.cast_pos.mpr hm
  have hround : |fixReal (x2 * t / fixOne / m) - fixReal x2 * fixReal t / m| ≤ fixUlp := by
    have h := abs_fixReal_div_sub_le (x2 * t) (Nat.mul_pos fixOne_pos hm)
    rwa [← Nat.div_div_eq_div_mul, Nat.cast_mul, ← div_div, fixReal_mul_div_fixOne] at h
  have hvalues : |fixReal x2 * fixReal t / m - z * T / m| ≤ (|fixReal x2 - z| + z * |fixReal t - T|) / m := by
    have hsplit : fixReal x2 * fixReal t / m - z * T / m =
        ((fixReal x2 - z) * fixReal t + z * (fixReal t - T)) / m := by ring
    rw [hsplit, abs_div, abs_of_pos hm']
    gcongr
    refine (abs_add_le _ _).trans (add_le_add ?_ ?_)
    · rw [abs_mul, abs_of_nonneg (fixReal_nonneg t)]
      exact mul_le_of_le_one_right (abs_nonneg _) (fixReal_le_one ht)
    · rw [abs_mul, abs_of_nonneg hz]
  exact (abs_sub_le _ _ _).trans (add_le_add hround hvalues)

theorem cast_divisor {k : ℕ} (hk : 1 ≤ k) : (((2 * k - 1) * (2 * k) : ℕ) : ℝ) = (2 * k - 1) * (2 * k) := by
  rw [Nat.cast_mul, Nat.cast_sub (by omega)]
  push_cast
  ring

section Tail
variable {x2 : ℕ} {z w : ℝ} (hz0 : 0 ≤ z) (hz : z ≤ 5 / 2) (hw : |fixReal x2 - z| + fixUlp ≤ w)
include hz0 hz hw

/-- Behind the first step each step damps the error of the inner tail, so the tail stays within twice the error of one
step. -/
theorem abs_cosTail_sub_le (k : ℕ) (hk : 2 ≤ k) (n : ℕ) : |fixReal (cosTail x2 k n) - cosNest z k n| ≤ 2 * w := by
  have hulp := fixUlp_nonneg
  have hdiff := abs_nonneg (fixReal x2 - z)
  have hw0 : 0 ≤ w := by linarith
  induction n generalizing k with
  | zero =>
    rw [cosTail, cosNest, fixReal_fixOne, sub_self, abs_zero]
    linarith
  | succ n ih =>
    have hm := twelve_le_divisor hk
    have hstep := abs_step_sub_le (x2 := x2) (T := cosNest z (k + 1) n) (m := (2 * k - 1) * (2 * k))
      (Nat.mul_pos (by omega) (by omega)) (cosTail_le x2 (k + 1) n) hz0
    have hinner := ih (k + 1) (by omega)
    obtain ⟨hnest, -⟩ := cosNest_mem hz0 hz k hk (n + 1)
    have hsum : (|fixReal x2 - z| + z * |fixReal (cosTail x2 (k + 1) n) - cosNest z (k + 1) n|) /
        ((2 * k - 1) * (2 * k)) ≤ (|fixReal x2 - z| + 5 / 2 * (2 * w)) / 12 := by gcongr
    rw [cast_divisor (by omega)] at hstep
    rw [cosTail]
    refine (abs_fixReal_sub_le hnest).trans ?_
    rw [cosNest, show ∀ a b : ℝ, 1 - a - (1 - b) = -(a - b) by intros; ring, abs_neg]
    linarith

/-- The first step against a cosine of the first quarter turn. -/
theorem abs_cosTail_one_sub_le {c : ℝ} (hc : 0 ≤ c) (n : ℕ) :
    |fixReal (cosTail x2 1 (n + 1)) - c| ≤ 4 * w + |cosNest z 1 (n + 1) - c| := by
  have hulp := fixUlp_nonneg
  have hdiff := abs_nonneg (fixReal x2 - z)
  have hw0 : 0 ≤ w := by linarith
  have hinner := abs_cosTail_sub_le hz0 hz hw 2 le_rfl n
  have hstep := abs_step_sub_le (x2 := x2) (T := cosNest z 2 n) (m := 2) Nat.two_pos (cosTail_le x2 2 n) hz0
  have hsum : (|fixReal x2 - z| + z * |fixReal (cosTail x2 2 n) - cosNest z 2 n|) / 2 ≤
      (|fixReal x2 - z| + 5 / 2 * (2 * w)) / 2 := by gcongr
  have hnest : cosNest z 1 (n + 1) = 1 - z * cosNest z 2 n / 2 := by
    rw [cosNest]
    norm_num
  have htail : cosTail x2 1 (n + 1) = fixOne - x2 * cosTail x2 2 n / fixOne / 2 := rfl
  rw [htail]
  refine (abs_fixReal_sub_le hc).trans ((abs_sub_le _ (cosNest z 1 (n + 1)) _).trans (add_le_add_left ?_ _))
  rw [hnest, show ∀ a b : ℝ, 1 - a - (1 - b) = -(a - b) by intros; ring, abs_neg]
  push_cast at hstep
  linarith

end Tail

/-- π in fixed point. -/
theorem abs_fixReal_fixPi_sub_le : |fixReal fixPi - Real.pi| ≤ 1 / 10 ^ 20 := by
  have hlo : (3.14159265358979323846 : ℝ) ≤ fixReal fixPi := by
    rw [fixReal, le_div_iff₀ fixOne_cast_pos, fixPi, fixOne]
    norm_num
  have hhi : fixReal fixPi ≤ (3.14159265358979323847 : ℝ) := by
    rw [fixReal, div_le_iff₀ fixOne_cast_pos, fixPi, fixOne]
    norm_num
  have hpiLo := Real.pi_gt_d20
  have hpiHi := Real.pi_lt_d20
  rw [abs_le]
  constructor <;> norm_num at * <;> linarith

section Angle
variable {a d : ℕ} (hd : 0 < d) (ha : 2 * a ≤ d)
include hd ha

/-- The part of a half turn. -/
theorem ratio_mem : 0 ≤ (a : ℝ) / d ∧ (a : ℝ) / d ≤ 1 / 2 := by
  have hd' : (0 : ℝ) < d := Nat.cast_pos.mpr hd
  refine ⟨by positivity, ?_⟩
  rw [div_le_iff₀ hd']
  have : (2 * a : ℝ) ≤ d := by exact_mod_cast ha
  linarith

/-- The angle in fixed point. -/
theorem abs_angle_sub_le : |fixReal (fixPi * a / d) - Real.pi * a / d| ≤ 1 / 10 ^ 20 := by
  obtain ⟨hs0, hs⟩ := ratio_mem hd ha
  have hround := abs_fixReal_div_sub_le (fixPi * a) hd
  have hvalue : fixReal (fixPi * a) / d = fixReal fixPi * (a / d) := by
    unfold fixReal
    push_cast
    ring
  have hpi : |fixReal fixPi * (a / d) - Real.pi * a / d| ≤ 1 / 10 ^ 20 * (1 / 2) := by
    rw [mul_div_assoc, ← sub_mul, abs_mul, abs_of_nonneg hs0]
    exact mul_le_mul abs_fixReal_fixPi_sub_le hs hs0 (by positivity)
  rw [hvalue] at hround
  have hulp := fixUlp_le
  have htotal := abs_sub_le (fixReal (fixPi * a / d)) (fixReal fixPi * (a / d)) (Real.pi * a / d)
  norm_num at *
  linarith

/-- The square of the angle in fixed point. -/
theorem abs_square_sub_le :
    |fixReal (fixPi * a / d * (fixPi * a / d) / fixOne) - (Real.pi * a / d) ^ 2| ≤ 5 / 10 ^ 20 := by
  obtain ⟨hs0, hs⟩ := ratio_mem hd ha
  have hangle := abs_angle_sub_le hd ha
  have hround := abs_fixReal_div_sub_le (fixPi * a / d * (fixPi * a / d)) fixOne_pos
  rw [fixReal_mul_div_fixOne] at hround
  have hx : Real.pi * a / d ≤ 1.6 := by
    rw [mul_div_assoc]
    nlinarith [Real.pi_lt_d2, Real.pi_pos]
  have hx0 : 0 ≤ Real.pi * a / d := by positivity
  generalize Real.pi * a / d = x at hangle hx hx0 ⊢
  generalize fixReal (fixPi * a / d) = X at hangle hround
  have hsquare : |X * X - x ^ 2| ≤ 1 / 10 ^ 20 * 4 := by
    rw [show X * X - x ^ 2 = (X - x) * (X + x) by ring, abs_mul]
    refine mul_le_mul hangle ?_ (abs_nonneg _) (by positivity)
    rw [abs_le] at hangle ⊢
    constructor <;> norm_num at * <;> linarith
  have hulp := fixUlp_le
  have htotal := abs_sub_le (fixReal (fixPi * a / d * (fixPi * a / d) / fixOne)) (X * X) (x ^ 2)
  norm_num at *
  linarith

/-- The cosine of the first quarter turn in fixed point. -/
theorem abs_cosQuad_sub_le : |fixReal (cosQuad a d) - Real.cos (Real.pi * a / d)| ≤ 1 / 2 ^ 60 := by
  have hd' : (d : ℝ) ≠ 0 := Nat.cast_ne_zero.mpr hd.ne'
  obtain ⟨hs0, hs⟩ := ratio_mem hd ha
  have hpi := Real.pi_pos
  have hx0 : 0 ≤ Real.pi * a / d := by positivity
  have hx : Real.pi * a / d ≤ Real.pi / 2 := by
    rw [mul_div_assoc, div_eq_mul_one_div Real.pi 2]
    exact mul_le_mul_of_nonneg_left hs hpi.le
  have hexact {v : ℝ} {q : ℕ} (hq : fixReal q = v) (hv : Real.cos (Real.pi * a / d) = v) :
      |fixReal q - Real.cos (Real.pi * a / d)| ≤ 1 / 2 ^ 60 := by
    rw [hq, hv, sub_self, abs_zero]
    positivity
  unfold cosQuad
  split_ifs with h0 h2 h3
  · exact hexact fixReal_fixOne (by rw [h0, Nat.cast_zero, mul_zero, zero_div, Real.cos_zero])
  · refine hexact (v := 0) (by rw [fixReal, Nat.cast_zero, zero_div]) ?_
    have hangle : Real.pi * a / d = Real.pi / 2 := by
      rw [div_eq_div_iff hd' two_ne_zero, ← h2]
      push_cast
      ring
    rw [hangle, Real.cos_pi_div_two]
  · refine hexact fixReal_fixOne_half ?_
    have hangle : Real.pi * a / d = Real.pi / 3 := by
      rw [div_eq_div_iff hd' three_ne_zero, ← h3]
      push_cast
      ring
    rw [hangle, Real.cos_pi_div_three]
  · have hpi2 := Real.pi_lt_d2
    have hcos : 0 ≤ Real.cos (Real.pi * a / d) := Real.cos_nonneg_of_neg_pi_div_two_le_of_le (by linarith) hx
    have hz : (Real.pi * a / d) ^ 2 ≤ 5 / 2 := by nlinarith
    have hsquare : |fixReal (fixPi * a / d * (fixPi * a / d) / fixOne) - (Real.pi * a / d) ^ 2| + fixUlp ≤ 6 / 10 ^ 20 :=
      (add_le_add (abs_square_sub_le hd ha) fixUlp_le).trans (by norm_num)
    have htail := abs_cosTail_one_sub_le (sq_nonneg _) hz hsquare hcos 39
    have htrunc := abs_cosNest_sub_cos_le hx0 (by linarith)
    exact htail.trans ((add_le_add_right htrunc _).trans (by norm_num))

end Angle

/-! ### The whole turn, and the tables -/

/-- The cosine of a part of a turn by the angle `cosTurn` brings into the first half turn. -/
theorem cos_turn_eq (r : ℕ) {d : ℕ} (hd : 0 < d) :
    Real.cos (2 * Real.pi * r / d) = Real.cos (Real.pi * (2 * min (r % d) (d - r % d) : ℕ) / d) := by
  have hd' : (d : ℝ) ≠ 0 := Nat.cast_ne_zero.mpr hd.ne'
  have hmod := Nat.mod_lt r hd
  have hsplit : 2 * Real.pi * r / d = 2 * Real.pi * (r % d : ℕ) / d + (r / d : ℕ) * (2 * Real.pi) := by
    have hr : (r : ℝ) = (r % d : ℕ) + d * (r / d : ℕ) := by exact_mod_cast (Nat.mod_add_div r d).symm
    rw [hr]
    field_simp
  rw [hsplit, Real.cos_add_nat_mul_two_pi]
  rcases Nat.le_total (r % d) (d - r % d) with hle | hle
  · rw [Nat.min_eq_left hle]
    push_cast
    congr 1
    ring
  · rw [Nat.min_eq_right hle, ← Real.cos_two_pi_sub]
    congr 1
    rw [Nat.cast_mul, Nat.cast_sub hmod.le]
    push_cast
    field_simp

/-- The cosine in fixed point against the real one, at every part of a turn. -/
theorem abs_cosTurn_sub_le (r : ℕ) {d : ℕ} (hd : 0 < d) :
    |(cosTurn r d : ℝ) / fixOne - Real.cos (2 * Real.pi * r / d)| ≤ 1 / 2 ^ 60 := by
  have hd' : (d : ℝ) ≠ 0 := Nat.cast_ne_zero.mpr hd.ne'
  have hmod := Nat.mod_lt r hd
  have hle : 2 * min (r % d) (d - r % d) ≤ d := by omega
  unfold cosTurn
  dsimp only
  rw [cos_turn_eq r hd]
  generalize 2 * min (r % d) (d - r % d) = a at hle ⊢
  split_ifs with hq
  · exact abs_cosQuad_sub_le hd hq
  · have hquad := abs_cosQuad_sub_le (a := d - a) hd (by omega)
    have hmirror : Real.pi * (d - a : ℕ) / d = Real.pi - Real.pi * a / d := by
      rw [Nat.cast_sub hle]
      field_simp
    rw [hmirror, Real.cos_pi_sub, sub_neg_eq_add] at hquad
    rw [Int.cast_neg, Int.cast_natCast, neg_div, ← neg_add', abs_neg]
    exact hquad

end FixedPoint

/-- A table's formula in the cosines of the angle and of its double. -/
noncomputable def tableFormula (t : Table) (c1 c2 : ℝ) : ℝ :=
  match t with
  | .hamming => 0.54 - 0.46 * c1
  | .hann => 0.5 * (1 - c1)
  | .blackman => 0.42 - 0.5 * c1 + 0.08 * c2

/-- The tables evaluate their formulas in the cosines in fixed point. -/
theorem tableValue_eq_formula (t : Table) (size n : ℕ) :
    (tableValue t size n : ℝ) / (100 * (fixOne : ℝ)) =
      tableFormula t ((cosTurn n (size - 1) : ℝ) / fixOne) ((cosTurn (2 * n) (size - 1) : ℝ) / fixOne) := by
  have hone := fixOne_cast_pos.ne'
  cases t <;>
  · simp only [tableValue, tableFormula]
    push_cast
    field_simp
    ring

/-- The formulas damp the errors of their cosines. -/
theorem abs_tableFormula_sub_le (t : Table) {c1 c2 k1 k2 e : ℝ} (h1 : |c1 - k1| ≤ e) (h2 : |c2 - k2| ≤ e) :
    |tableFormula t c1 c2 - tableFormula t k1 k2| ≤ e := by
  rw [abs_le] at h1 h2 ⊢
  cases t <;>
  · simp only [tableFormula]
    constructor <;> norm_num <;> linarith

/-- Settles O44: each table evaluates its formula in two cosines, each of them within the bound. -/
theorem romTablesApproximateTheFormulas : Obligations.RomTablesApproximateTheFormulas := by
  intro size n hsize _ θ value
  have hd : 0 < size - 1 := by omega
  have hangle := abs_cosTurn_sub_le n hd
  have hdouble := abs_cosTurn_sub_le (2 * n) hd
  have htwice : 2 * Real.pi * (2 * n : ℕ) / (size - 1 : ℕ) = 2 * θ := by
    push_cast
    ring
  rw [htwice] at hdouble
  have htable (t : Table) : |value t - tableFormula t (Real.cos θ) (Real.cos (2 * θ))| ≤ 1 / 2 ^ 60 := by
    rw [show value t = _ from tableValue_eq_formula t size n]
    exact abs_tableFormula_sub_le t hangle hdouble
  exact ⟨htable .hamming, htable .hann, htable .blackman⟩

end Sys2Proof.Machine
